-- ==== Sys2Proof/Word.lean ====
section
/-! DEFINITION. The bit-vector widths of the block: register bytes, register addresses, timebase values and
operation words. The block has no wider word and no general register (R20, R50, R51). -/

namespace Sys2Proof

/-- One host register, or one byte of the frame (R25, R36). -/
abbrev Byte := BitVec 8

/-- A host register address, 4 bits (R50). -/
abbrev Addr := BitVec 4

/-- A 32-bit unsigned value: a timebase value, which wraps modulo 2^32, or an instantiation parameter (R8, R10). -/
abbrev U32 := BitVec 32

/-- An operation word: kind in bits 13:12, address in bits 11:8, data in bits 7:0 (R71). -/
abbrev Opw := BitVec 14

end Sys2Proof
end

