-- ==== Sys2Proof/Syntax.lean ====
section
/-! DEFINITION. The operations of the block, one constructor for each row of spec/opcode_table.json (R70, R77, R78),
and the reasons an operation word is INVALID (R78 step 6). -/

namespace Sys2Proof

/-- One operation of the block. The timebase operands `now_us` and `now_ms` come beside it, from the ports (R74). -/
inductive Instr where
  /-- NOP: `WR 0x0, 0x00` (R100). -/
  | nop
  /-- START: `WR 0x0, 0x01` (R101). -/
  | start
  /-- CONV_ACK: `WR 0x0, 0x02` (R108). -/
  | convAck
  /-- SRST: `WR 0x0, 0x03` (R109). -/
  | srst
  /-- CMD_RSVD: `WR 0x0, d` with a reserved command code `d` (R110). -/
  | cmdRsvd (d : Byte)
  /-- WR_NOCMD: `WR a, d` to an address other than CMD (R112). -/
  | wrNoCmd (a : Addr) (d : Byte)
  /-- RD: a host register read (R111). -/
  | rd (a : Addr)
  /-- EDGE: one falling edge of the signal line (R130). -/
  | edge
  /-- RELEASE: the end of the trigger hold (R105). -/
  | release
deriving DecidableEq, Repr

/-- The row of spec/opcode_table.json that an operation belongs to. -/
def Instr.mnemonic : Instr → String
  | .nop => "NOP"
  | .start => "START"
  | .convAck => "CONV_ACK"
  | .srst => "SRST"
  | .cmdRsvd _ => "CMD_RSVD"
  | .wrNoCmd _ _ => "WR_NOCMD"
  | .rd _ => "RD"
  | .edge => "EDGE"
  | .release => "RELEASE"

/-- Who issues an operation (R72). -/
inductive Agent where
  | host
  | signalLine
  | holdTimer
deriving DecidableEq, Repr

/-- The agent of an operation (R72; the table's "agent"). -/
def Instr.agent : Instr → Agent
  | .nop => .host
  | .start => .host
  | .convAck => .host
  | .srst => .host
  | .cmdRsvd _ => .host
  | .wrNoCmd _ _ => .host
  | .rd _ => .host
  | .edge => .signalLine
  | .release => .holdTimer

/-- Why an operation word is INVALID (R78 step 6, R79). -/
inductive Invalid where
  /-- A word of kind RD whose data field is not zero. -/
  | readWithData
  /-- A word of kind EDGE with an address or data. -/
  | edgeWithOperand
  /-- A word of kind RELEASE with an address or data. -/
  | releaseWithOperand
deriving DecidableEq, Repr

end Sys2Proof
end

