-- ==== Sys2Proof/WellFormed.lean ====
section
/-! DEFINITION. Which terms of Instr are operations of the block: those that some operation word decodes to. -/

namespace Sys2Proof

/-- A reserved command code is 0x04 or above (R77, R110), and a non-command write has an address other than CMD
(R76, R112). Every other term is an operation as it stands. -/
def Instr.wf : Instr → Bool
  | .cmdRsvd d => decide (4#8 ≤ d)
  | .wrNoCmd a _ => decide (a ≠ 0#4)
  | .nop => true
  | .start => true
  | .convAck => true
  | .srst => true
  | .rd _ => true
  | .edge => true
  | .release => true

end Sys2Proof
end

