-- ==== Sys2Proof/Decode.lean ====
section
/-! DEFINITION. Decoding and encoding of operation words (R71 to R79), the opcode table as rows of match and mask,
and the host's view of a table word. -/

namespace Sys2Proof

/-- `k = OPW[13:12]`, the kind (R71, R72). -/
def opwKind (w : Opw) : BitVec 2 := w.extractLsb' 12 2

/-- `a = OPW[11:8]`, the register address (R71, R74). -/
def opwAddr (w : Opw) : Addr := w.extractLsb' 8 4

/-- `d = OPW[7:0]`, the write data (R71, R74). -/
def opwData (w : Opw) : Byte := w.extractLsb' 0 8

/-- The command whose code is `d` (R77). -/
def command (d : Byte) : Instr :=
  if d = 0x00#8 then .nop
  else if d = 0x01#8 then .start
  else if d = 0x02#8 then .convAck
  else if d = 0x03#8 then .srst
  else .cmdRsvd d

/-- The operation that a host write of `d` to address `a` is: a command at CMD, no command elsewhere (R53, R75, R76). -/
def ofWrite (a : Addr) (d : Byte) : Instr :=
  if a = 0x0#4 then command d else .wrNoCmd a d

/-- The decoder of R78: total on all 2^14 words, INVALID words named. -/
def decode (w : Opw) : Except Invalid Instr :=
  if opwKind w = 0b00#2 then .ok (ofWrite (opwAddr w) (opwData w))
  else if opwKind w = 0b01#2 then
    if opwData w = 0x00#8 then .ok (.rd (opwAddr w)) else .error .readWithData
  else if opwKind w = 0b10#2 then
    if opwAddr w = 0x0#4 ∧ opwData w = 0x00#8 then .ok .edge else .error .edgeWithOperand
  else
    if opwAddr w = 0x0#4 ∧ opwData w = 0x00#8 then .ok .release else .error .releaseWithOperand

/-- The word `{k, a, d}` (R71). -/
def pack (k : BitVec 2) (a : Addr) (d : Byte) : Opw := k ++ a ++ d

/-- The kind field of an operation's word (R72). -/
def Instr.kindField : Instr → BitVec 2
  | .nop => 0b00
  | .start => 0b00
  | .convAck => 0b00
  | .srst => 0b00
  | .cmdRsvd _ => 0b00
  | .wrNoCmd _ _ => 0b00
  | .rd _ => 0b01
  | .edge => 0b10
  | .release => 0b11

/-- The address field of an operation's word (R73). -/
def Instr.addrField : Instr → Addr
  | .nop => 0
  | .start => 0
  | .convAck => 0
  | .srst => 0
  | .cmdRsvd _ => 0
  | .wrNoCmd a _ => a
  | .rd a => a
  | .edge => 0
  | .release => 0

/-- The data field of an operation's word (R73, R77). -/
def Instr.dataField : Instr → Byte
  | .nop => 0x00
  | .start => 0x01
  | .convAck => 0x02
  | .srst => 0x03
  | .cmdRsvd d => d
  | .wrNoCmd _ d => d
  | .rd _ => 0x00
  | .edge => 0x00
  | .release => 0x00

/-- The encoder: the word of an operation, from the formats of R73 and the command codes of R77. -/
def encode (i : Instr) : Opw := pack i.kindField i.addrField i.dataField

/-- One row of spec/opcode_table.json: a word `w` matches when `w AND mask = bits`. -/
structure TableRow where
  mnemonic : String
  bits : Opw
  mask : Opw
  priority : Nat
deriving DecidableEq, Repr

/-- The rows of spec/opcode_table.json in order of priority, as they are tried (R78). -/
def opcodeTable : List TableRow :=
  [ ⟨"NOP", 0x0000, 0x3FFF, 0⟩,
    ⟨"START", 0x0001, 0x3FFF, 0⟩,
    ⟨"CONV_ACK", 0x0002, 0x3FFF, 0⟩,
    ⟨"SRST", 0x0003, 0x3FFF, 0⟩,
    ⟨"RD", 0x1000, 0x30FF, 0⟩,
    ⟨"EDGE", 0x2000, 0x3FFF, 0⟩,
    ⟨"RELEASE", 0x3000, 0x3FFF, 0⟩,
    ⟨"CMD_RSVD", 0x0000, 0x3F00, 1⟩,
    ⟨"WR_NOCMD", 0x0000, 0x3000, 2⟩ ]

/-- The first row of a list that a word matches. -/
def firstRow (w : Opw) : List TableRow → Option String
  | [] => none
  | r :: rest => if w &&& r.mask = r.bits then some r.mnemonic else firstRow w rest

/-- The operation word whose bits, numbered as the opcode table numbers them, are those of `w` below `nbits`.
A number that needs more than 14 bits is no operation word (R71): it is given as the INVALID word 0x3FFF, which the
decoder refuses (DESIGN CHOICE, safe, log 15). -/
def tableOpw (nbits w : Nat) : Opw :=
  if w % 2 ^ nbits < 2 ^ 14 then BitVec.ofNat 14 (w % 2 ^ nbits) else 0x3FFF#14

/-- What the decoder reads from an operation whose table bits are `w`. -/
def decodeTableWord (nbits w : Nat) : Option Instr :=
  match decode (tableOpw nbits w) with
  | .ok i => some i
  | .error _ => none

end Sys2Proof
end

