-- ==== Sys2Proof/Config.lean ====
section
/-! DEFINITION. The instantiation parameters of the block (R8), what makes a configuration legal (R9), and the
defaults. The parameters are a field of State that no operation writes, so every statement about all states is a
statement about all configurations. -/

namespace Sys2Proof

/-- The sensor family, the "11/21/22 family" (R3, R8). -/
inductive Variant where
  | dht11
  | dht21
  | dht22
deriving DecidableEq, Repr

/-- The instantiation parameters of R8, each a 32-bit unsigned value but for the variant. -/
structure Params where
  /-- `VARIANT`: the sensor family. -/
  variant : Variant
  /-- `HOLD_US`: how long the trigger holds the line low, in microseconds. -/
  holdUs : U32
  /-- `THROTTLE_MS`: the least interval between triggers, in milliseconds. -/
  throttleMs : U32
  /-- `T_STALL`: the global stall threshold. -/
  tStall : U32
  /-- `T_JITTER`: the startup-jitter ceiling. -/
  tJitter : U32
  /-- `T_RESP_LO`: the response window's exclusive lower bound. -/
  tRespLo : U32
  /-- `T_RESP_HI`: the response window's exclusive upper bound. -/
  tRespHi : U32
  /-- `T_BIT_LO`: the data window's exclusive lower bound. -/
  tBitLo : U32
  /-- `T_BIT_HI`: the data window's exclusive upper bound. -/
  tBitHi : U32
  /-- `T_ONE`: the inclusive threshold of a 1 bit. -/
  tOne : U32
  /-- `T_GLITCH`: the exclusive glitch floor. -/
  tGlitch : U32
deriving DecidableEq, Repr

/-- The hold a variant asks for (R9). -/
abbrev Params.HoldLegal (p : Params) : Prop :=
  (p.variant = .dht11 → 18000#32 ≤ p.holdUs) ∧
  (p.variant ≠ .dht11 → 800#32 ≤ p.holdUs ∧ p.holdUs ≤ 20000#32)

/-- The thresholds stand in the order that R9 asks for. -/
abbrev Params.ThresholdsLegal (p : Params) : Prop :=
  p.tGlitch ≤ p.tBitLo ∧ p.tBitLo < p.tOne ∧ p.tOne < p.tBitHi ∧ p.tBitHi ≤ p.tStall ∧
  p.tJitter ≤ p.tRespLo ∧ p.tRespLo < p.tRespHi ∧ p.tRespHi ≤ p.tStall

/-- A legal configuration (R9). The operations are total on every configuration; only `State.instantiate` refuses. -/
abbrev Params.Legal (p : Params) : Prop :=
  p.ThresholdsLegal ∧ p.HoldLegal

/-- The defaults of R8 for a variant and a throttle interval, the two parameters that have none. -/
def Params.defaults (v : Variant) (throttleMs : U32) : Params where
  variant := v
  holdUs := match v with
    | .dht11 => 18000
    | .dht21 => 1000
    | .dht22 => 1000
  throttleMs := throttleMs
  tStall := 6000
  tJitter := 65
  tRespLo := 125
  tRespHi := 200
  tBitLo := 60
  tBitHi := 155
  tOne := 110
  tGlitch := 10

/-- DESIGN CHOICE, unsafe (log 1): the configuration of `State.reset`, a DHT22 block with the suggested throttle
interval of R8. R8 gives `VARIANT` no default and leaves `THROTTLE_MS` open; no statement rests on either value. -/
def Params.chosen : Params := Params.defaults .dht22 2000

end Sys2Proof
end

