-- ==== Sys2Proof/Machine/State.lean ====
section
/-! DEFINITION. The state of the block as plain data: the spec's record `s` (R22 to R33), the instantiation
parameters (R8), the ports that carry a level or a value between operations (R40), and the inputs that have yet to
arrive, in the total order of R60. -/

namespace Sys2Proof.Machine

/-- `s.state`, the acquisition state (R22). -/
inductive AcqState where
  | stopped
  | awaitingResponse
  | receivingData
  | acquired
deriving DecidableEq, Repr

/-- The codes of the status taxonomy (R23). `s.status` never holds `alreadyAcquiring`, which only START's result uses. -/
inductive Status where
  | ok
  | checksumError
  | isrTimeout
  | responseTimeout
  | dataTimeout
  | alreadyAcquiring
  | deltaGlitch
  | notStarted
deriving DecidableEq, Repr

/-- `s.result`, the return value of the most recent START (R24). -/
inductive StartResult where
  /-- None: no START since reset. -/
  | noStart
  | acquiring
  | usedCachedReading
  | alreadyAcquiring
deriving DecidableEq, Repr

/-- `s.frame[0..4]`, the five bytes of the data frame (R11, R25). -/
structure Frame where
  /-- Humidity high. -/
  b0 : Byte
  /-- Humidity low. -/
  b1 : Byte
  /-- Temperature high. -/
  b2 : Byte
  /-- Temperature low. -/
  b3 : Byte
  /-- Checksum. -/
  b4 : Byte
deriving DecidableEq, Repr

/-- The classes into which an armed EDGE's delta falls (R130, R143, R144). -/
inductive EdgeClass where
  /-- The delta exceeds the stall threshold (R133). -/
  | stall
  /-- Startup jitter, rolled back (R135). -/
  | jitter
  /-- The response marker (R136). -/
  | response
  /-- No response in its window (R137). -/
  | responseTimeout
  /-- A valid data edge and the bit it encodes (R138, R139). -/
  | dataBit (one : Bool)
  /-- A delta below the glitch floor (R140). -/
  | glitch
  /-- Any other delta while receiving data (R141). -/
  | dataTimeout
  /-- A terminal state: no change (R142). -/
  | terminal
deriving DecidableEq, Repr

/-- The block state, the spec's record `s` (R14, R22 to R33). -/
structure Block where
  /-- R22. -/
  state : AcqState
  /-- R23. -/
  status : Status
  /-- R24. -/
  result : StartResult
  /-- R25. -/
  frame : Frame
  /-- R26: bits already received into the current byte. -/
  bitCur : BitVec 3
  /-- R26: the index of the byte being received; 5 when all five are complete. -/
  byteCur : BitVec 3
  /-- R27: falling edges are processed. -/
  armed : Bool
  /-- R28: the block drives the line low. -/
  driveLow : Bool
  /-- R29: the consumer's converted values are stale. -/
  convPending : Bool
  /-- R30: a trigger has been issued since reset or SRST. -/
  firstDone : Bool
  /-- R31: the reference timestamp of the next delta. -/
  lastEdge : U32
  /-- R32: when the current trigger's drive-low began. -/
  holdStart : U32
  /-- R33: when the last trigger was issued, on the millisecond timebase. -/
  lastAcq : U32
deriving DecidableEq, Repr

/-- One thing that happens at the block's ports. The three physical forms are those of R40 and R70. -/
inductive Stimulus where
  /-- An operation written as an operation word (R71). RELEASE in this form is the turn of the block's hold timer. -/
  | opw (w : Opw)
  /-- One `bus_we` strobe with `bus_addr` and `bus_wdata`. -/
  | busWrite (a : Addr) (d : Byte)
  /-- One `bus_re` strobe with `bus_addr`. -/
  | busRead (a : Addr)
  /-- `sig_in` is sampled at this level; a 1-to-0 change is an EDGE. -/
  | sigLevel (level : Bool)
  /-- `rst` is at this level from now on (R230, R232). -/
  | rstLevel (level : Bool)
deriving DecidableEq, Repr

/-- A stimulus with the values of `ts_us` and `ts_ms` when it takes effect (R10, R71). -/
structure Input where
  stim : Stimulus
  nowUs : U32
  nowMs : U32
deriving DecidableEq, Repr

/-- The whole machine. -/
structure State where
  /-- The spec's record `s`. -/
  blk : Block
  /-- The instantiation parameters (R8); no operation writes them. -/
  cfg : Params
  /-- The value on the `ts_us` port. -/
  tsUs : U32
  /-- The value on the `ts_ms` port. -/
  tsMs : U32
  /-- The level on the `rst` port. -/
  rst : Bool
  /-- The level of `sig_in` last sampled. -/
  sigIn : Bool
  /-- The value last answered on the `bus_rdata` port. -/
  busRdata : Byte
  /-- The inputs yet to arrive, in the total order of R60. The model's own field (log 2). -/
  pending : List Input
deriving DecidableEq, Repr

/-- Why a step stops. The block itself has no trap (R200). -/
inductive Fault where
  /-- Raised by EDGE alone: a data bit is accepted while `byteCur` is 5 or more, so there is no byte to shift it into.
  R26 and R35 I4 say no run reaches such a state, and no rule gives the effect. Safe (log 10). -/
  | cursorPastFrame
deriving DecidableEq, Repr

/-- Why a step is refused. -/
inductive Refusal where
  /-- Raised by no arm once every instruction has its meaning: an instruction with no meaning yet. Safe. -/
  | notModelled (mnemonic : String)
  /-- Raised by the input step, on an INVALID operation word, which corresponds to no physical stimulus; R79 has a
  model refuse it. Safe. -/
  | invalidOpw (why : Invalid)
deriving DecidableEq, Repr

/-- What a meaning answers. -/
abbrev Out := Host.Outcome State Fault Refusal

/-- The frame of zeros (R25). -/
def Frame.zero : Frame := ⟨0, 0, 0, 0, 0⟩

/-- Every field of `s` at its reset value (R230, and R22 to R33). -/
def Block.reset : Block where
  state := .stopped
  status := .notStarted
  result := .noStart
  frame := Frame.zero
  bitCur := 0
  byteCur := 0
  armed := false
  driveLow := false
  convPending := false
  firstDone := false
  lastEdge := 0
  holdStart := 0
  lastAcq := 0

/-- A block with parameters `p`, right after hardware reset (R230, R231). The values of the four ports are the
model's: DESIGN CHOICE, unsafe (logs 5, 7, 8); nothing is pending (log 2). -/
def State.resetWith (p : Params) : State where
  blk := Block.reset
  cfg := p
  tsUs := 0
  tsMs := 0
  rst := false
  sigIn := true
  busRdata := 0
  pending := []

/-- A block is made only with a legal configuration (R9; I12 of 93_implementation_defined.md: refuse the block). -/
def State.instantiate (p : Params) : Option State :=
  if p.Legal then some (State.resetWith p) else none

/-- The machine right after reset (R230), with the configuration of log 1. -/
def State.reset : State := State.resetWith Params.chosen

end Sys2Proof.Machine
end

