-- ==== Sys2Proof/Machine/Flags.lean ====
section
/-! DEFINITION. The derived predicate `busy`, the codes of state, status and result, the FLAGS and CURSOR registers,
and the output ports. -/

namespace Sys2Proof.Machine

/-- `busy(s)`: the state is AwaitingResponse or ReceivingData (R34). -/
def busy (b : Block) : Bool :=
  match b.state with
  | .awaitingResponse => true
  | .receivingData => true
  | .stopped => false
  | .acquired => false

/-- The 2-bit code of `s.state` (R22). -/
def AcqState.code : AcqState → BitVec 2
  | .stopped => 0
  | .awaitingResponse => 1
  | .receivingData => 2
  | .acquired => 3

/-- The byte of a status code (R23). -/
def Status.byte : Status → Byte
  | .ok => 0x01
  | .checksumError => 0xFF
  | .isrTimeout => 0xFE
  | .responseTimeout => 0xFD
  | .dataTimeout => 0xFC
  | .alreadyAcquiring => 0xFB
  | .deltaGlitch => 0xFA
  | .notStarted => 0xF9

/-- The byte of a START result (R24). -/
def StartResult.byte : StartResult → Byte
  | .noStart => 0x00
  | .acquiring => 0x02
  | .usedCachedReading => 0x03
  | .alreadyAcquiring => 0xFB

/-- FLAGS: `{000, FIRST_DONE, DRIVE_LOW, ARMED, CONV_PENDING, BUSY}` (R37, R111). -/
def flagsByte (b : Block) : Byte :=
  0b000#3 ++ BitVec.ofBool b.firstDone ++ BitVec.ofBool b.driveLow ++ BitVec.ofBool b.armed ++
    BitVec.ofBool b.convPending ++ BitVec.ofBool (busy b)

/-- CURSOR: `{0, byteCur, 0, bitCur}` (R38, R111). -/
def cursorByte (b : Block) : Byte :=
  0b0#1 ++ b.byteCur ++ 0b0#1 ++ b.bitCur

/-- The edge interrupt is enabled exactly while `armed` is 1 (R205). -/
def edgeInterruptEnabled (b : Block) : Bool := b.armed

/-- The output port `sig_drive_low` (R40, R107). -/
def State.sigDriveLow (s : State) : Bool := s.blk.driveLow

/-- The output port `busy` (R40, R206). -/
def State.busyPort (s : State) : Bool := busy s.blk

end Sys2Proof.Machine
end

