-- ==== Sys2Proof/Machine/Operands.lean ====
section
/-! DEFINITION. The timebase operands: `now_us` and `now_ms` are the values of the ports `tsUs` and `tsMs` when an
operation takes effect (R10, R74), and every interval is a 32-bit modular difference (R13, R131). -/

namespace Sys2Proof.Machine

/-- `(now - ref) mod 2^32` (R13). -/
abbrev elapsed (now ref : U32) : U32 := now - ref

/-- The delta of an edge, the time since the reference timestamp (R131). -/
abbrev edgeDelta (nowUs : U32) (b : Block) : U32 := elapsed nowUs b.lastEdge

/-- START's step 1: a trigger has been issued and less than `THROTTLE_MS` has elapsed since (R101). -/
def throttled (p : Params) (nowMs : U32) (b : Block) : Bool :=
  b.firstDone && decide (elapsed nowMs b.lastAcq < p.throttleMs)

/-- The trigger hold is over (R105, R106). -/
def holdOver (p : Params) (nowUs : U32) (b : Block) : Bool :=
  decide (p.holdUs ≤ elapsed nowUs b.holdStart)

/-- RELEASE is enabled (R105). -/
def releaseEnabled (p : Params) (nowUs : U32) (b : Block) : Bool :=
  b.driveLow && holdOver p nowUs b

/-- When the hold timer raises RELEASE if nothing else happens from `nowUs` on: now if the hold is over, else the
first value of `ts_us` at which it is (R106). -/
def releaseDue (p : Params) (nowUs : U32) (b : Block) : U32 :=
  if holdOver p nowUs b then nowUs else b.holdStart + p.holdUs

end Sys2Proof.Machine
end

