-- ==== Sys2Proof/Machine/Ops.lean ====
section
/-! DEFINITION. The named operations that the meanings share: updates of the machine's fields, the register view
(R36, R52), the frame (R25, R160, R163), the trigger and its end (R104, R105), and the one way into an error, `abort`
(R203). The block has no trap, and nothing returns from an abort (R210, R211). -/

namespace Sys2Proof.Machine

/-- Replace the record `s`. -/
def State.withBlk (s : State) (b : Block) : State := { s with blk := b }

/-- The ports carry these timebase values (R10). -/
def State.withTime (s : State) (us ms : U32) : State := { s with tsUs := us, tsMs := ms }

/-- The block answers a read with `v` on `bus_rdata` (R40). -/
def State.withRdata (s : State) (v : Byte) : State := { s with busRdata := v }

/-- `sig_in` was sampled at this level. -/
def State.withSigIn (s : State) (level : Bool) : State := { s with sigIn := level }

/-- These inputs are yet to arrive. -/
def State.withPending (s : State) (q : List Input) : State := { s with pending := q }

/-- `rst` is at this level from now on. Where it is or was asserted, every field of `s` is at its reset value (R230,
R232); a low level on a running block changes nothing. -/
def State.withRst (s : State) (level : Bool) : State :=
  { s with rst := level, blk := if level || s.rst then Block.reset else s.blk }

/-- `RegRead(a)`: the register map (R36 to R38, R52, R111). -/
def regRead (a : Addr) (b : Block) : Byte :=
  match a.toNat with
  | 0x0 => 0x00
  | 0x1 => b.result.byte
  | 0x2 => b.state.code.setWidth 8
  | 0x3 => b.status.byte
  | 0x4 => flagsByte b
  | 0x5 => b.frame.b0
  | 0x6 => b.frame.b1
  | 0x7 => b.frame.b2
  | 0x8 => b.frame.b3
  | 0x9 => b.frame.b4
  | 0xA => cursorByte b
  | _ => 0x00

/-- Byte `i` of the frame changed by `g`; none where the frame has no byte `i` (R11, R25). -/
def Frame.modify (f : Frame) (i : BitVec 3) (g : Byte → Byte) : Option Frame :=
  match i.toNat with
  | 0 => some { f with b0 := g f.b0 }
  | 1 => some { f with b1 := g f.b1 }
  | 2 => some { f with b2 := g f.b2 }
  | 3 => some { f with b3 := g f.b3 }
  | 4 => some { f with b4 := g f.b4 }
  | _ => none

/-- `((x << 1) | bit) mod 256` (R160). -/
def shiftBit (bit : Bool) (x : Byte) : Byte := (x <<< 1) ||| (BitVec.ofBool bit).setWidth 8

/-- The 8-bit truncated sum of bytes 0 to 3 (R163). -/
def Frame.sum (f : Frame) : Byte := f.b0 + f.b1 + f.b2 + f.b3

/-- The fifth byte equals the sum of the first four (R163). -/
def Frame.checksumOk (f : Frame) : Bool := decide (f.b4 = f.sum)

/-- `abort(code)`: edges detached, the status recorded, the state Stopped, and no other field written (R203). -/
def abort (code : Status) (b : Block) : Block :=
  { b with armed := false, status := code, state := .stopped }

/-- START's return value (R24, R101). -/
def setResult (r : StartResult) (b : Block) : Block := { b with result := r }

/-- START's step 3: frame and cursors zeroed, the line driven low, the times recorded (R101, R104). -/
def trigger (nowUs nowMs : U32) (b : Block) : Block :=
  { b with
    frame := Frame.zero, bitCur := 0, byteCur := 0, state := .awaitingResponse, driveLow := true,
    holdStart := nowUs, lastAcq := nowMs, firstDone := true, result := .acquiring }

/-- The effect of RELEASE: the line released, the reference captured, edges armed (R105). -/
def releaseLine (nowUs : U32) (b : Block) : Block :=
  { b with driveLow := false, lastEdge := nowUs, armed := true }

/-- The effect of CONV_ACK (R108). -/
def ackConversion (b : Block) : Block := { b with convPending := false }

/-- `s.lastEdge <- now_us` (R134). -/
def setLastEdge (nowUs : U32) (b : Block) : Block := { b with lastEdge := nowUs }

/-- The response marker is accepted (R136). -/
def beginData (b : Block) : Block := { b with state := .receivingData }

end Sys2Proof.Machine
end

