-- ==== Sys2Proof/Machine/Access.lean ====
section
/-! DEFINITION. Register reads and writes that are no command (R111, R112). -/

namespace Sys2Proof.Machine

/-- RD: `RegRead(a)` is answered on `bus_rdata`; no field of `s` is written (R111, R52). -/
def execRd (a : Addr) (s : State) : Out := .next (s.withRdata (regRead a s.blk))

/-- WR_NOCMD: every register at these addresses is read-only or reserved, so nothing is written (R112). -/
def execWrNoCmd (_a : Addr) (_d : Byte) (s : State) : Out := .next s

end Sys2Proof.Machine
end

