-- ==== Sys2Proof/Machine/Control.lean ====
section
/-! DEFINITION. The commands written to CMD and the end of the trigger hold (R100 to R110). -/

namespace Sys2Proof.Machine

/-- NOP (R100). -/
def execNop (s : State) : Out := .next s

/-- What START does to the record `s`: throttle test, busy test, trigger, in that order (R101, C2). -/
def startBlock (p : Params) (nowUs nowMs : U32) (b : Block) : Block :=
  if throttled p nowMs b then setResult .usedCachedReading b
  else if busy b then setResult .alreadyAcquiring b
  else trigger nowUs nowMs b

/-- START, one atomic transition (R101, R65). -/
def execStart (s : State) : Out :=
  .next (s.withBlk (startBlock s.cfg s.tsUs s.tsMs s.blk))

/-- CONV_ACK (R108). -/
def execConvAck (s : State) : Out := .next (s.withBlk (ackConversion s.blk))

/-- SRST: every field of `s` takes its reset value (R109). No operation
writes the parameters (R8), and ports are no fields of `s` (R40). -/
def execSrst (s : State) : Out := .next (s.withBlk Block.reset)

/-- CMD_RSVD: accepted, with no effect (R110; log 9). -/
def execCmdRsvd (_d : Byte) (s : State) : Out := .next s

/-- RELEASE (R105): its effect when it is enabled, and no step when it is not (log 4). -/
def execRelease (s : State) : Out :=
  if releaseEnabled s.cfg s.tsUs s.blk then .next (s.withBlk (releaseLine s.tsUs s.blk))
  else .next s

end Sys2Proof.Machine
end

