-- ==== Sys2Proof/Machine/Assembly.lean ====
section
/-! DEFINITION. Bit assembly, cursor advance and the checksum validator (R160 to R165): the part of EDGE that a valid
data edge runs. -/

namespace Sys2Proof.Machine

/-- `complete_frame()`: edges detached, then the checksum decides between Acquired and Stopped (R162 to R165). -/
def completeFrame (b : Block) : Block :=
  if b.frame.checksumOk then
    { b with armed := false, status := .ok, state := .acquired, convPending := true }
  else
    { b with armed := false, status := .checksumError, state := .stopped }

/-- Cursor advance after a shift: next bit, or next byte, or the frame is complete (R161). -/
def advanceCursor (b : Block) : Block :=
  if b.bitCur < 7#3 then { b with bitCur := b.bitCur + 1 }
  else if b.byteCur + 1 = 5#3 then completeFrame { b with bitCur := 0, byteCur := b.byteCur + 1 }
  else { b with bitCur := 0, byteCur := b.byteCur + 1 }

/-- `shift_in(b)` with the cursor advance; none where the cursor points past the frame (R160, R161). -/
def shiftIn (bit : Bool) (b : Block) : Option Block :=
  match b.frame.modify b.byteCur (shiftBit bit) with
  | some f => some (advanceCursor { b with frame := f })
  | none => none

end Sys2Proof.Machine
end

