-- ==== Sys2Proof/Machine/Edge.lean ====
section
/-! DEFINITION. The timing classifier and the EDGE operation (R130 to R144). -/

namespace Sys2Proof.Machine

/-- The class of a delta in AwaitingResponse, below the stall guard (R135 to R137, R144; a delta of 0 by the same
comparisons, log 19). -/
def classifyAwaiting (p : Params) (delta : U32) : EdgeClass :=
  if delta < p.tJitter then .jitter
  else if p.tRespLo < delta ∧ delta < p.tRespHi then .response
  else .responseTimeout

/-- The class of a delta in ReceivingData, below the stall guard (R138 to R141, R144; a delta of 0 by the same
comparisons, log 19). -/
def classifyData (p : Params) (delta : U32) : EdgeClass :=
  if p.tBitLo < delta ∧ delta < p.tBitHi then .dataBit (decide (p.tOne ≤ delta))
  else if delta < p.tGlitch then .glitch
  else .dataTimeout

/-- The class of an armed EDGE: the stall guard first, then the state's own tests (R130, R133, R144). -/
def classify (p : Params) (st : AcqState) (delta : U32) : EdgeClass :=
  if p.tStall < delta then .stall
  else match st with
    | .awaitingResponse => classifyAwaiting p delta
    | .receivingData => classifyData p delta
    | .acquired => .terminal
    | .stopped => .terminal

/-- What an EDGE of a class does to the record `s` (R130). None only where a data bit meets a cursor past the frame. -/
def applyClass (c : EdgeClass) (nowUs : U32) (b : Block) : Option Block :=
  match c with
  | .stall => some (abort .isrTimeout (setLastEdge nowUs b))
  | .jitter => some b
  | .response => some (beginData (setLastEdge nowUs b))
  | .responseTimeout => some (abort .responseTimeout (setLastEdge nowUs b))
  | .dataBit one => shiftIn one (setLastEdge nowUs b)
  | .glitch => some (abort .deltaGlitch (setLastEdge nowUs b))
  | .dataTimeout => some (abort .dataTimeout (setLastEdge nowUs b))
  | .terminal => some b

/-- The class of an EDGE at `s`, were it armed. -/
def State.edgeClass (s : State) : EdgeClass :=
  classify s.cfg s.blk.state (edgeDelta s.tsUs s.blk)

/-- EDGE (R130): nothing while disarmed (R132), else the effect of its class. -/
def execEdge (s : State) : Out :=
  if s.blk.armed then
    match applyClass s.edgeClass s.tsUs s.blk with
    | some b => .next (s.withBlk b)
    | none => .fault .cursorPastFrame
  else .next s

end Sys2Proof.Machine
end

