-- ==== Sys2Proof/Machine/Dispatch.lean ====
section
/-! DEFINITION. The meaning of every operation, one arm per constructor. -/

namespace Sys2Proof.Machine

/-- What an operation does, at the timebase values on the ports. -/
def exec (i : Instr) (s : State) : Host.Outcome State Fault Refusal :=
  match i with
  | .nop => Sys2Proof.Machine.execNop s
  | .start => Sys2Proof.Machine.execStart s
  | .convAck => Sys2Proof.Machine.execConvAck s
  | .srst => Sys2Proof.Machine.execSrst s
  | .cmdRsvd d => Sys2Proof.Machine.execCmdRsvd d s
  | .wrNoCmd a d => Sys2Proof.Machine.execWrNoCmd a d s
  | .rd a => Sys2Proof.Machine.execRd a s
  | .edge => Sys2Proof.Machine.execEdge s
  | .release => Sys2Proof.Machine.execRelease s

end Sys2Proof.Machine
end

