-- ==== Sys2Proof/Machine/Inputs.lean ====
section
/-! DEFINITION. How an input reaches the block: the operation that a stimulus is (R70, R78), what `rst` holds off
(R232), and what the block does when no input waits (R106, R218). -/

namespace Sys2Proof.Machine

/-- The address of a read. -/
def readAddr : Instr → Option Addr
  | .rd a => some a
  | .nop => none
  | .start => none
  | .convAck => none
  | .srst => none
  | .cmdRsvd _ => none
  | .wrNoCmd _ _ => none
  | .edge => none
  | .release => none

/-- An operation while `rst` is asserted: it has no effect, the fields of `s` are at reset, and a read answers a reset
value (R232). -/
def heldInReset (i : Instr) (s : State) : State :=
  match readAddr i with
  | some a => (s.withBlk Block.reset).withRdata (regRead a Block.reset)
  | none => s.withBlk Block.reset

/-- An operation takes effect, unless `rst` holds it off (R232). -/
def perform (i : Instr) (s : State) : Out :=
  if s.rst then .next (heldInReset i s) else exec i s

/-- A stimulus arrives (R70). An INVALID word is refused (R79). A 1-to-0 change of `sig_in` is an EDGE (R40). -/
def accept (st : Stimulus) (s : State) : Out :=
  match st with
  | .opw w =>
    match decode w with
    | .ok i => perform i s
    | .error e => .refused (.invalidOpw e)
  | .busWrite a d => perform (ofWrite a d) s
  | .busRead a => perform (.rd a) s
  | .sigLevel level =>
    if s.sigIn && !level then perform .edge (s.withSigIn level) else .next (s.withSigIn level)
  | .rstLevel level => .next (s.withRst level)

/-- No input waits. A running trigger hold ends, since RELEASE always happens eventually (R106); otherwise the block
does no work (R218). DESIGN CHOICE (log 3): that this is a step of the idle machine, and that `ts_ms` keeps its value
while `ts_us` moves to the end of the hold, since the spec gives no relation between the two timebases. -/
def idle (s : State) : Out :=
  if s.rst then .next (s.withBlk Block.reset)
  else if s.blk.driveLow then
    exec .release (s.withTime (releaseDue s.cfg s.tsUs s.blk) s.tsMs)
  else .next s

/-- The next input, in the order of R60, taken off the queue with its timebase values on the ports. -/
def stepInput (s : State) : Out :=
  match s.pending with
  | [] => idle s
  | inp :: rest => accept inp.stim ((s.withPending rest).withTime inp.nowUs inp.nowMs)

/-- The input that carries the operation word of a table row, at the timebase values now on the ports. -/
def tableInput (s : State) (nbits w : Nat) : Input := ⟨.opw (tableOpw nbits w), s.tsUs, s.tsMs⟩

/-- Place an input first in the queue, with `rst` released so that it takes effect. -/
def State.withNextInput (s : State) (inp : Input) : State :=
  { s with pending := inp :: s.pending, rst := false }

end Sys2Proof.Machine
end

