-- ==== Sys2Proof/Machine/Step.lean ====
section
/-! DEFINITION. One step of the machine: the next input in the total order takes effect (R60). -/

namespace Sys2Proof.Machine

/-- One step. -/
def step (s : State) : Host.Outcome State Fault Refusal := stepInput s

/-- The operation of a table word is the next input: the block runs no program, and an operation comes to it from
outside (R21, R66; log 2). -/
def State.withFetchWord (s : State) (nbits w : Nat) : State :=
  s.withNextInput (tableInput s nbits w)

end Sys2Proof.Machine
end

