-- ==== Sys2Proof/Safety.lean ====
section
/-! DEFINITION. What a good state is: the invariants of R35, those that R23, R114, R136, R160 and R201 rely on, and
what reset asks for (R232). What a safe run is, and the words that the statements about sequences of inputs use. -/

namespace Sys2Proof.Machine

/-- Bits not yet received are zero: the current byte is below `2^bitCur` and the later bytes are zero (R160's corner
case: a shift discards no received bit). -/
def Frame.partialAt (f : Frame) (byteCur bitCur : BitVec 3) : Bool :=
  match byteCur.toNat with
  | 0 => decide (f.b0.toNat < 2 ^ bitCur.toNat ∧ f.b1 = 0 ∧ f.b2 = 0 ∧ f.b3 = 0 ∧ f.b4 = 0)
  | 1 => decide (f.b1.toNat < 2 ^ bitCur.toNat ∧ f.b2 = 0 ∧ f.b3 = 0 ∧ f.b4 = 0)
  | 2 => decide (f.b2.toNat < 2 ^ bitCur.toNat ∧ f.b3 = 0 ∧ f.b4 = 0)
  | 3 => decide (f.b3.toNat < 2 ^ bitCur.toNat ∧ f.b4 = 0)
  | 4 => decide (f.b4.toNat < 2 ^ bitCur.toNat)
  | _ => true

/-- The invariants of the record `s`. -/
structure BlockInv (b : Block) : Prop where
  /-- R35 I1. -/
  armedBusy : b.armed = true → busy b = true ∧ b.driveLow = false
  /-- R35 I2. -/
  driveLowAwaiting : b.driveLow = true → b.state = .awaitingResponse ∧ b.armed = false
  /-- R35 I3. -/
  busyPhase : busy b = true → b.driveLow = !b.armed
  /-- R35 I4, while receiving data. -/
  receivingCursor : b.state = .receivingData → b.byteCur ≤ 4#3
  /-- R35 I4, while waiting for the response. -/
  awaitingCursor : b.state = .awaitingResponse → b.byteCur = 0#3 ∧ b.bitCur = 0#3
  /-- R35 I5. -/
  acquiredFrame : b.state = .acquired →
    b.status = .ok ∧ b.byteCur = 5#3 ∧ b.bitCur = 0#3 ∧ b.frame.b4 = b.frame.sum
  /-- R35 I6. -/
  completeCursor : b.byteCur = 5#3 → b.bitCur = 0#3 ∧ busy b = false
  /-- R26: `byteCur` is 0 to 5. -/
  cursorBound : b.byteCur ≤ 5#3
  /-- R114: `firstDone` is 1 while busy. -/
  busyFirst : busy b = true → b.firstDone = true
  /-- R23: AlreadyAcquiring is never written to `status`. -/
  statusWritten : b.status ≠ .alreadyAcquiring
  /-- R136, R201: the frame is zero until the first data bit. -/
  awaitingFrame : b.state = .awaitingResponse → b.frame = Frame.zero
  /-- R160: bits not yet received are zero. -/
  partialFrame : b.state = .receivingData → b.frame.partialAt b.byteCur b.bitCur = true

/-- The invariant of the machine. -/
structure Inv (s : State) : Prop where
  block : BlockInv s.blk
  /-- R232: while `rst` is asserted the fields of `s` are at reset. -/
  inReset : s.rst = true → s.blk = Block.reset

/-- `n` steps of the machine, stopping where one stops. -/
def run : Nat → State → Out
  | 0, s => .next s
  | n + 1, s =>
    match step s with
    | .next t => run n t
    | .fault r => .fault r
    | .refused r => .refused r

/-- A run of `n` steps that stops nowhere and keeps the invariant. -/
def SafeRun (n : Nat) (s : State) : Prop :=
  ∃ t, run n s = .next t ∧ Inv t

/-- The operation that a stimulus brings by itself. A level of `sig_in` or `rst` brings none; an INVALID word is none. -/
def Stimulus.instr (st : Stimulus) : Option Instr :=
  match st with
  | .opw w =>
    match decode w with
    | .ok i => some i
    | .error _ => none
  | .busWrite a d => some (ofWrite a d)
  | .busRead a => some (.rd a)
  | .sigLevel _ => none
  | .rstLevel _ => none

/-- An input that is no INVALID word. -/
def Input.valid (inp : Input) : Bool :=
  match inp.stim with
  | .opw w =>
    match decode w with
    | .ok _ => true
    | .error _ => false
  | .busWrite _ _ => true
  | .busRead _ => true
  | .sigLevel _ => true
  | .rstLevel _ => true

/-- An input that resets the block: SRST, or `rst` asserted. -/
def Input.resets (inp : Input) : Bool :=
  decide (inp.stim.instr = some .srst) || decide (inp.stim = .rstLevel true)

/-- An input that brings START. -/
def Input.starts (inp : Input) : Bool := decide (inp.stim.instr = some .start)

/-- An input that may bring an EDGE: an EDGE word, or a low level of `sig_in`. -/
def Input.mayEdge (inp : Input) : Bool :=
  decide (inp.stim.instr = some .edge) || decide (inp.stim = .sigLevel false)

/-- An EDGE at `nowUs`, as an operation word. The millisecond timebase has no part in it (R74). -/
def edgeInput (nowUs nowMs : U32) : Input := ⟨.opw (encode .edge), nowUs, nowMs⟩

/-- EDGE inputs one after another: each delta after the time before it. -/
def edgeInputs (nowMs : U32) : U32 → List U32 → List Input
  | _, [] => []
  | at_, d :: ds => edgeInput (at_ + d) nowMs :: edgeInputs nowMs (at_ + d) ds

/-- The eight bits of a byte, most significant first (R55). -/
def byteBits (x : Byte) : List Bool :=
  [x.getLsbD 7, x.getLsbD 6, x.getLsbD 5, x.getLsbD 4, x.getLsbD 3, x.getLsbD 2, x.getLsbD 1, x.getLsbD 0]

/-- The forty bits of a frame in the order they arrive (R55, R56). -/
def frameBits (f : Frame) : List Bool :=
  byteBits f.b0 ++ byteBits f.b1 ++ byteBits f.b2 ++ byteBits f.b3 ++ byteBits f.b4

/-- Each delta is one that a configuration classifies as the data bit beside it (R133, R138, R139). -/
def EncodeBits (p : Params) (bits : List Bool) (deltas : List U32) : Prop :=
  deltas.map (classify p .receivingData) = bits.map EdgeClass.dataBit

end Sys2Proof.Machine
end

