-- ==== Sys2Proof/Machine/Consumer.lean ====
section
/-! DEFINITION. The consumer's view (R81, R180 to R186): host software built from the block's operations, and how it
reads a frame. The block performs none of it (43_consumer_view.md); it stands outside `step`. A sequence of operations
is no single transition (R54): before each of its operations the machine may take any number of steps, in which other
operations take effect. Numbers are exact integers in tenths or hundredths of a unit. Log 16. -/

namespace Sys2Proof.Machine

/-! ### Host operations in a sequence -/

/-- The machine takes `n` steps, then the host performs an operation on it, held off while `rst` is asserted (R232).
None where a step stops. -/
def waitThen (n : Nat) (i : Instr) (s : State) : Option State :=
  match run n s with
  | .next t =>
    match perform i t with
    | .next u => some u
    | .fault _ => none
    | .refused _ => none
  | .fault _ => none
  | .refused _ => none

/-- RD after `n` steps: what `bus_rdata` answers, and the machine after the read. -/
def readAfter (n : Nat) (a : Addr) (s : State) : Option (Byte × State) :=
  (waitThen n (.rd a) s).map (fun t => (t.busRdata, t))

/-! ### Predicates -/

/-- IS_ACQUIRING: bit 0 of FLAGS (R180). -/
def isAcquiring (s : State) : Bool := (regRead 0x4#4 s.blk).getLsbD 0

/-- GET_STATUS: the STATUS byte (R181). -/
def getStatus (s : State) : Byte := regRead 0x3#4 s.blk

/-! ### Frame interpretation -/

/-- What a consumer holds for one frame: the source's converted values, as far as the spec gives them. -/
structure Reading where
  /-- Relative humidity, in tenths of a percent. -/
  humidityTenths : Int
  /-- Temperature, in tenths of a degree Celsius. -/
  celsiusTenths : Int
deriving DecidableEq, Repr

/-- The 11-family's reading of a frame: bytes 0 and 2, in whole units (R184). -/
def interpret11 (f : Frame) : Reading where
  humidityTenths := 10 * (f.b0.toNat : Int)
  celsiusTenths := 10 * (f.b2.toNat : Int)

/-- The 15-bit magnitude `{frame[2][6:0], frame[3]}` (R185). -/
def magnitude22 (f : Frame) : Nat := f.b2.toNat % 128 * 256 + f.b3.toNat

/-- The 21/22-family's reading of a frame: big-endian tenths, bit 7 of byte 2 a sign (R57, R185). -/
def interpret22 (f : Frame) : Reading where
  humidityTenths := ((f.b0.toNat * 256 + f.b1.toNat : Nat) : Int)
  celsiusTenths := if f.b2.msb then -(magnitude22 f : Int) else (magnitude22 f : Int)

/-- A variant's reading of a frame (R184, R185). -/
def interpret (v : Variant) (f : Frame) : Reading :=
  match v with
  | .dht11 => interpret11 f
  | .dht21 => interpret22 f
  | .dht22 => interpret22 f

/-- Fahrenheit in hundredths of a degree: `temp * 9/5 + 32` (R186). -/
def Reading.fahrenheitHundredths (r : Reading) : Int := 18 * r.celsiusTenths + 3200

/-- Kelvin in hundredths: `temp + 273.15` (R186). -/
def Reading.kelvinHundredths (r : Reading) : Int := 10 * r.celsiusTenths + 27315

/-- What a getter is asked for (R183). -/
inductive Quantity where
  | humidity
  | celsius
  | fahrenheit
  | kelvin
  | dewPoint
  | dewPointSlow
deriving DecidableEq, Repr

/-- The two dew-point formulas, in hundredths of a degree. Their constants are not in the source, so a model of the
consumer takes them as parameters (R186, I17); what a formula makes of a reading is open. -/
structure DewFormulas where
  fast : Reading → Int
  slow : Reading → Int

/-- The requested value of a reading, in hundredths of its unit (R183 to R186). -/
def Reading.value (d : DewFormulas) (r : Reading) : Quantity → Int
  | .humidity => 10 * r.humidityTenths
  | .celsius => 10 * r.celsiusTenths
  | .fahrenheit => r.fahrenheitHundredths
  | .kelvin => r.kelvinHundredths
  | .dewPoint => d.fast r
  | .dewPointSlow => d.slow r

/-! ### Getters -/

/-- What a getter answers (R183). The numbers of the error sentinels are not in the source. -/
inductive GetterAnswer where
  | error (status : Byte)
  | inProgress
  /-- In hundredths of the unit of the requested quantity. -/
  | value (hundredths : Int)
deriving DecidableEq, Repr

/-- A getter's answer, the converted values that the consumer holds after it, and the machine after it. -/
structure GetterResult where
  answer : GetterAnswer
  cached : Reading
  machine : State
deriving DecidableEq, Repr

/-- RD FRAME0 to RD FRAME4 (R183); `wait k` steps before the getter's operation `k`, of which these are 2 to 6. -/
def readFrame (wait : Nat → Nat) (s0 : State) : Option (Frame × State) :=
  (readAfter (wait 2) 0x5#4 s0).bind fun (b0, s1) =>
  (readAfter (wait 3) 0x6#4 s1).bind fun (b1, s2) =>
  (readAfter (wait 4) 0x7#4 s2).bind fun (b2, s3) =>
  (readAfter (wait 5) 0x8#4 s3).bind fun (b3, s4) =>
  (readAfter (wait 6) 0x9#4 s4).map fun (b4, s5) => (⟨b0, b1, b2, b3, b4⟩, s5)

/-- The lazy conversion of a getter: the frame is read and converted, then acknowledged (R183). -/
def convertFrame (v : Variant) (wait : Nat → Nat) (s : State) : Option (Reading × State) :=
  (readFrame wait s).bind fun (f, t) => (waitThen (wait 7) .convAck t).map fun u => (interpret v f, u)

/-- A getter in Acquired: conversion if FLAGS says that one is pending, then the requested value (R183). -/
def getAcquired (v : Variant) (d : DewFormulas) (q : Quantity) (wait : Nat → Nat) (cached : Reading) (s : State) :
    Option GetterResult :=
  (readAfter (wait 1) 0x4#4 s).bind fun (flags, t) =>
    if flags.getLsbD 1 then
      (convertFrame v wait t).map fun (r, u) => ⟨.value (r.value d q), r, u⟩
    else some ⟨.value (cached.value d q), cached, t⟩

/-- GET_VALUE for a quantity (R183). `cached` is what the consumer converted last, and `wait k` says how many steps the
machine takes before the getter's operation `k`. None only where such a step stops. -/
def getValue (v : Variant) (d : DewFormulas) (q : Quantity) (wait : Nat → Nat) (cached : Reading) (s : State) :
    Option GetterResult :=
  (readAfter (wait 0) 0x2#4 s).bind fun (state, t) =>
    match state.toNat with
    | 0 => (readAfter (wait 1) 0x3#4 t).map fun (status, u) => ⟨.error status, cached, u⟩
    | 3 => getAcquired v d q wait cached t
    | _ => some ⟨.inProgress, cached, t⟩

/-! ### The blocking call -/

/-- The loop of ACQUIRE_WAIT (R182): RD FLAGS until bit 0 is 0, then RD STATUS. The list says how many steps the
machine takes before each poll, and `last` before the read of STATUS. None when the polls of the list were not enough
(R238: the loop need not end) or a step stops. -/
def pollUntilIdle (last : Nat) : List Nat → State → Option (Byte × State)
  | [], _ => none
  | n :: polls, s =>
    (readAfter n 0x4#4 s).bind fun (flags, t) =>
      if flags.getLsbD 0 then pollUntilIdle last polls t else readAfter last 0x3#4 t

/-- ACQUIRE_WAIT: START, then the loop (R182): the status it returns, and the machine after it. -/
def acquireWait (polls : List Nat) (last : Nat) (s : State) : Option (Byte × State) :=
  (waitThen 0 .start s).bind (pollUntilIdle last polls)

end Sys2Proof.Machine
end

