-- ==== Sys2Proof/Machine/Trace.lean ====
section
/-! DEFINITION. The trace notation of R80 as abstract syntax: lines of an optional time on each timebase and one
operation, assembled into the inputs they stand for. -/

namespace Sys2Proof.Machine

/-- The register names of R80, at the addresses of R36. -/
inductive RegName where
  | cmd
  | result
  | state
  | status
  | flags
  | frame0
  | frame1
  | frame2
  | frame3
  | frame4
  | cursor
deriving DecidableEq, Repr

/-- The address of a named register (R36, R58). -/
def RegName.addr : RegName → Addr
  | .cmd => 0x0
  | .result => 0x1
  | .state => 0x2
  | .status => 0x3
  | .flags => 0x4
  | .frame0 => 0x5
  | .frame1 => 0x6
  | .frame2 => 0x7
  | .frame3 => 0x8
  | .frame4 => 0x9
  | .cursor => 0xA

/-- A time: absolute, or relative to the previous line's value (R80). -/
inductive TraceTime where
  | absolute (n : Nat)
  | relative (n : Nat)
deriving DecidableEq, Repr

/-- The operation of a line (R80). -/
inductive TraceOp where
  | nop
  | start
  | convAck
  | srst
  | cmd (v : Byte)
  | wr (a : Addr) (d : Byte)
  | rdName (r : RegName)
  | rdAddr (a : Addr)
  | edge
  | release
deriving DecidableEq, Repr

/-- One line (R80). -/
structure TraceLine where
  t : Option TraceTime
  ms : Option TraceTime
  op : TraceOp
deriving DecidableEq, Repr

/-- The operation word of a line (R78, R80): the commands are WR forms at address 0x0. -/
def TraceOp.opw : TraceOp → Opw
  | .nop => pack 0b00 0x0 0x00
  | .start => pack 0b00 0x0 0x01
  | .convAck => pack 0b00 0x0 0x02
  | .srst => pack 0b00 0x0 0x03
  | .cmd v => pack 0b00 0x0 v
  | .wr a d => pack 0b00 a d
  | .rdName r => pack 0b01 r.addr 0x00
  | .rdAddr a => pack 0b01 a 0x00
  | .edge => pack 0b10 0x0 0x00
  | .release => pack 0b11 0x0 0x00

/-- A time after the previous value `v`, on a timebase that wraps modulo 2^32 (R10, R80). -/
def traceTime (v : U32) : Option TraceTime → U32
  | none => v
  | some (.absolute n) => BitVec.ofNat 32 n
  | some (.relative n) => v + BitVec.ofNat 32 n

/-- The inputs of a trace, from the values `us` and `ms` on; a time holds until it is changed (R80). -/
def assembleFrom (us ms : U32) : List TraceLine → List Input
  | [] => []
  | l :: rest =>
    ⟨.opw l.op.opw, traceTime us l.t, traceTime ms l.ms⟩ ::
      assembleFrom (traceTime us l.t) (traceTime ms l.ms) rest

/-- The inputs of a trace; both times start at 0 (R80). -/
def assemble (ls : List TraceLine) : List Input := assembleFrom 0 0 ls

end Sys2Proof.Machine
end

