-- ==== Sys2Proof/Certificates/Slice0/Obligations.lean ====
section
/-! DEFINITION. The statements for the provers. `s.tsUs` and `s.tsMs` are the operands `now_us` and `now_ms` of the
operation that `exec` runs (R74); differences of `BitVec 32` are the modular differences of R13. Every statement holds
for every configuration unless it says otherwise. An equation of whole states says what an operation writes and, of
every other field, that it is unchanged. -/

open Sys2Proof Sys2Proof.Machine

/-! ## Reset -/

/-- R230: `rst` asserted, then released, sets every field of `s`, the outputs and the registers to their reset values,
and SRST has the same effect. -/
def Obligations.ResetSetsEveryField : Prop :=
  ∀ (s : State) (u m u' m' : U32) (rest : List Input),
    s.pending = ⟨.rstLevel true, u, m⟩ :: ⟨.rstLevel false, u', m'⟩ :: rest →
    let b : Block :=
      { state := .stopped, status := .notStarted, result := .noStart, frame := ⟨0, 0, 0, 0, 0⟩,
        bitCur := 0, byteCur := 0, armed := false, driveLow := false, convPending := false,
        firstDone := false, lastEdge := 0, holdStart := 0, lastAcq := 0 }
    ∃ t : State,
      run 2 s = .next t ∧
      t = { s with blk := b, rst := false, tsUs := u', tsMs := m', pending := rest } ∧
      t.sigDriveLow = false ∧ t.busyPort = false ∧
      (∀ a : Addr, regRead a t.blk = if a = 0x3#4 then 0xF9#8 else 0x00#8) ∧
      exec .srst s = .next { s with blk := b } ∧
      (∀ p : Params, (State.resetWith p).blk = b)

/-- R232: while `rst` is asserted no operation takes effect and reads answer the reset values; asserting it during an
acquisition abandons it at once. With nothing pending the hold timer does not run either. Beside R232's words it rests
on three choices of the model: a step with nothing pending (log 3), `bus_rdata` holding its value where no read answers
(log 5), and `rst` as a level that consumes the inputs that arrive under it (log 6). -/
def Obligations.NothingTakesEffectInReset : Prop :=
  (∀ s : State, Inv s → s.rst = true → s.pending = [] → step s = .next s) ∧
  ∀ (s : State) (inp : Input) (rest : List Input), Inv s → s.pending = inp :: rest →
    (s.rst = true → inp.valid = true → (∀ level, inp.stim ≠ .rstLevel level) →
      ∃ t, step s = .next t ∧ t.blk = Block.reset ∧ t.rst = true ∧
        (∀ a, inp.stim.instr = some (.rd a) → t.busRdata = if a = 0x3#4 then 0xF9#8 else 0x00#8) ∧
        ((∀ a, inp.stim.instr ≠ some (.rd a)) → t.busRdata = s.busRdata)) ∧
    (inp.stim = .rstLevel true →
      ∃ t, step s = .next t ∧ t.blk = Block.reset ∧ t.rst = true ∧ t.sigDriveLow = false ∧
        regRead 0x3 t.blk = 0xF9#8)

/-- The first START after reset or SRST is never throttled, and NotStarted does not hold it back (R101 corner case (a),
R204): as the very next operation, and after any inputs that bring no START, where it finds the record at reset. -/
def Obligations.FirstStartAfterResetTriggers : Prop :=
  (∀ (s t : State) (us ms : U32), exec .srst s = .next t →
    exec .start { t with tsUs := us, tsMs := ms } =
      .next { t with
        tsUs := us, tsMs := ms,
        blk := { Block.reset with
          result := .acquiring, state := .awaitingResponse, driveLow := true, firstDone := true,
          holdStart := us, lastAcq := ms } }) ∧
  (∀ (s : State) (first second : Input) (mid rest : List Input),
    s.pending = first :: (mid ++ second :: rest) → first.resets = true → second.starts = true →
    (∀ inp ∈ mid, inp.valid = true ∧ inp.starts = false) →
    ∃ t u : State,
      step s = .next t ∧ run mid.length t = .next u ∧ u.blk = Block.reset ∧ u.pending = second :: rest ∧
      (u.rst = false →
        step u = .next { u with
          tsUs := second.nowUs, tsMs := second.nowMs, pending := rest,
          blk := { Block.reset with
            result := .acquiring, state := .awaitingResponse, driveLow := true, firstDone := true,
            holdStart := second.nowUs, lastAcq := second.nowMs } }))

/-- A block is made exactly with the configurations that R9 calls legal, and the defaults of R8 are legal for every
variant and every throttle interval. That a block with another configuration is refused is the model's choice (log 12):
R9 says that a model may refuse it. -/
def Obligations.InstantiateOnlyLegalConfigurations : Prop :=
  (∀ (p : Params) (s : State),
    State.instantiate p = some s ↔
      (p.tGlitch ≤ p.tBitLo ∧ p.tBitLo < p.tOne ∧ p.tOne < p.tBitHi ∧ p.tBitHi ≤ p.tStall ∧
        p.tJitter ≤ p.tRespLo ∧ p.tRespLo < p.tRespHi ∧ p.tRespHi ≤ p.tStall ∧
        (p.variant = .dht11 → 18000#32 ≤ p.holdUs) ∧
        (p.variant = .dht21 ∨ p.variant = .dht22 → 800#32 ≤ p.holdUs ∧ p.holdUs ≤ 20000#32)) ∧
      s = State.resetWith p) ∧
  (∀ (v : Variant) (thr : U32), State.instantiate (Params.defaults v thr) =
    some (State.resetWith (Params.defaults v thr)))

/-! ## Encoding -/

/-- Words written out from R71, R73 and R77 decode to the operations they stand for, and words of R78 step 6 do not
decode. -/
def Obligations.SpecWordsDecode : Prop :=
  decode 0b00_0000_00000000#14 = .ok .nop ∧
  decode 0b00_0000_00000001#14 = .ok .start ∧
  decode 0b00_0000_00000010#14 = .ok .convAck ∧
  decode 0b00_0000_00000011#14 = .ok .srst ∧
  decode 0b00_0000_10000000#14 = .ok (.cmdRsvd 0x80) ∧
  decode 0b00_0011_00000001#14 = .ok (.wrNoCmd 0x3 0x01) ∧
  decode 0b01_1010_00000000#14 = .ok (.rd 0xA) ∧
  decode 0b10_0000_00000000#14 = .ok .edge ∧
  decode 0b11_0000_00000000#14 = .ok .release ∧
  decode 0b01_0011_00000001#14 = .error .readWithData ∧
  decode 0b10_0001_00000000#14 = .error .edgeWithOperand ∧
  decode 0b11_0000_00000001#14 = .error .releaseWithOperand

/-- R78: the six steps of the opcode map, on every operation word, and the rows of the opcode table, tried in order of
priority, name the same operation or none. -/
def Obligations.DecodeFollowsOpcodeMap : Prop :=
  ∀ (k : BitVec 2) (a : Addr) (d : Byte) (w : Opw), w = k ++ a ++ d →
    (k = 0b00#2 → a = 0x0#4 → d = 0x00#8 → decode w = .ok .nop) ∧
    (k = 0b00#2 → a = 0x0#4 → d = 0x01#8 → decode w = .ok .start) ∧
    (k = 0b00#2 → a = 0x0#4 → d = 0x02#8 → decode w = .ok .convAck) ∧
    (k = 0b00#2 → a = 0x0#4 → d = 0x03#8 → decode w = .ok .srst) ∧
    (k = 0b00#2 → a = 0x0#4 → 0x04#8 ≤ d → decode w = .ok (.cmdRsvd d)) ∧
    (k = 0b00#2 → a ≠ 0x0#4 → decode w = .ok (.wrNoCmd a d)) ∧
    (k = 0b01#2 → d = 0x00#8 → decode w = .ok (.rd a)) ∧
    (w = 0x2000#14 → decode w = .ok .edge) ∧
    (w = 0x3000#14 → decode w = .ok .release) ∧
    ((k = 0b01#2 ∧ d ≠ 0x00#8 ∨ (k = 0b10#2 ∨ k = 0b11#2) ∧ (a ≠ 0x0#4 ∨ d ≠ 0x00#8)) →
      ∃ e, decode w = .error e) ∧
    (match decode w with
      | .ok i => some i.mnemonic
      | .error _ => none) = firstRow w opcodeTable

/-- Decoding an encoded well-formed operation gives it back, with every operand at every value. -/
def Obligations.DecodeInvertsEncode : Prop :=
  ∀ i : Instr, i.wf = true → decode (encode i) = .ok i

/-- Every word that decodes is the encoding of what it decodes to, which is well-formed: no two words share a meaning. -/
def Obligations.EncodeInvertsDecode : Prop :=
  ∀ (w : Opw) (i : Instr), decode w = .ok i → i.wf = true ∧ encode i = w

/-- Every operation of the trace notation has a word, and it decodes to the operation that R80 says the line is; a
register name stands for its address in R36. -/
def Obligations.TraceOperationsDecode : Prop :=
  ∀ op : TraceOp,
    decode op.opw = .ok (match op with
      | .nop => .nop
      | .start => .start
      | .convAck => .convAck
      | .srst => .srst
      | .cmd v => ofWrite 0x0 v
      | .wr a d => ofWrite a d
      | .rdName r => .rd (match r with
        | .cmd => 0x0
        | .result => 0x1
        | .state => 0x2
        | .status => 0x3
        | .flags => 0x4
        | .frame0 => 0x5
        | .frame1 => 0x6
        | .frame2 => 0x7
        | .frame3 => 0x8
        | .frame4 => 0x9
        | .cursor => 0xA)
      | .rdAddr a => .rd a
      | .edge => .edge
      | .release => .release)

/-! ## The step -/

/-- A step runs the operation of the next input at that input's timebase values: an operation word that decodes, a bus
write or read strobe, a fall of `sig_in` (R60, R70, R74). An INVALID word is refused (R79). -/
def Obligations.StepRunsDecodedOperation : Prop :=
  ∀ (s : State) (us ms : U32) (rest : List Input) (st : Stimulus), s.rst = false →
    s.pending = ⟨st, us, ms⟩ :: rest →
    (∀ w i, st = .opw w → decode w = .ok i →
      step s = exec i { s with pending := rest, tsUs := us, tsMs := ms }) ∧
    (∀ w e, st = .opw w → decode w = .error e → step s = .refused (.invalidOpw e)) ∧
    (∀ a d, st = .busWrite a d →
      step s = exec (ofWrite a d) { s with pending := rest, tsUs := us, tsMs := ms }) ∧
    (∀ a, st = .busRead a →
      step s = exec (.rd a) { s with pending := rest, tsUs := us, tsMs := ms }) ∧
    (st = .sigLevel false → s.sigIn = true →
      step s = exec .edge { s with pending := rest, tsUs := us, tsMs := ms, sigIn := false })

/-- With `rst` released, a 1-to-0 change of `sig_in` is an EDGE at the time of its detection, and no other level of
`sig_in` touches the block (R40, R70, R130, R240). -/
def Obligations.SignalFallIsEdge : Prop :=
  ∀ (s : State) (us ms : U32) (rest : List Input) (level : Bool), s.rst = false →
    s.pending = ⟨.sigLevel level, us, ms⟩ :: rest →
    step s =
      if s.sigIn = true ∧ level = false then
        exec .edge { s with pending := rest, tsUs := us, tsMs := ms, sigIn := false }
      else .next { s with pending := rest, tsUs := us, tsMs := ms, sigIn := level }

/-- The host's way of placing an operation: a step from `withFetchWord` runs exactly the operation that the decoder
reads. -/
def Obligations.FetchWordRunsThatOperation : Prop :=
  ∀ (s : State) (nbits w : Nat) (i : Instr), decodeTableWord nbits w = some i →
    step (s.withFetchWord nbits w) = exec i { s with rst := false }

/-! ## Host operations -/

/-- R100, R110, R112: NOP, CMD_RSVD and WR_NOCMD, at their encodings, complete in every state and change nothing. -/
def Obligations.NoEffectOperationsChangeNothing : Prop :=
  ∀ (s : State) (a : Addr) (d : Byte),
    exec .nop s = .next s ∧ exec (.cmdRsvd d) s = .next s ∧ exec (.wrNoCmd a d) s = .next s ∧
    ofWrite 0x0#4 0x00#8 = .nop ∧ (0x04#8 ≤ d → ofWrite 0x0#4 d = .cmdRsvd d) ∧
    (a ≠ 0x0#4 → ofWrite a d = .wrNoCmd a d)

/-- R101: START's word, what it answers and writes on each of its three paths, and that it writes nothing else. -/
def Obligations.StartThrottlesThenRejectsThenTriggers : Prop :=
  decode 0x0001#14 = .ok .start ∧ ∀ s : State,
    (s.blk.firstDone = true → s.tsMs - s.blk.lastAcq < s.cfg.throttleMs →
      exec .start s = .next { s with blk := { s.blk with result := .usedCachedReading } }) ∧
    (¬(s.blk.firstDone = true ∧ s.tsMs - s.blk.lastAcq < s.cfg.throttleMs) →
      (s.blk.state = .awaitingResponse ∨ s.blk.state = .receivingData) →
      exec .start s = .next { s with blk := { s.blk with result := .alreadyAcquiring } }) ∧
    (¬(s.blk.firstDone = true ∧ s.tsMs - s.blk.lastAcq < s.cfg.throttleMs) →
      (s.blk.state = .stopped ∨ s.blk.state = .acquired) →
      exec .start s = .next { s with
        blk := { s.blk with
          frame := ⟨0, 0, 0, 0, 0⟩, bitCur := 0, byteCur := 0, state := .awaitingResponse,
          driveLow := true, holdStart := s.tsUs, lastAcq := s.tsMs, firstDone := true,
          result := .acquiring } })

/-- R114: a START while busy changes no field but `result`, and which value it writes. -/
def Obligations.StartWhileBusyOnlyWritesResult : Prop :=
  ∀ s : State, Inv s → busy s.blk = true →
    exec .start s = .next { s with
      blk := { s.blk with
        result := if s.cfg.throttleMs ≤ s.tsMs - s.blk.lastAcq then .alreadyAcquiring else .usedCachedReading } }

/-- R113: after a START that issues a trigger at `m1`, the next START, at `m2`, with neither SRST nor `rst` between,
answers UsedCachedReading within the throttle interval, and after it Acquiring or AlreadyAcquiring as the block is
idle or busy. Each START may be an operation word or a bus write. -/
def Obligations.ThrottleBetweenStarts : Prop :=
  ∀ (s : State) (first second : Input) (mid rest : List Input), Inv s → s.rst = false →
    s.pending = first :: (mid ++ second :: rest) →
    first.starts = true → second.starts = true →
    (s.blk.state = .stopped ∨ s.blk.state = .acquired) →
    ¬(s.blk.firstDone = true ∧ first.nowMs - s.blk.lastAcq < s.cfg.throttleMs) →
    (∀ inp ∈ mid, inp.valid = true ∧ inp.starts = false ∧ inp.resets = false) →
    ∃ t u v : State,
      step s = .next t ∧ t.blk.result = .acquiring ∧
      run mid.length t = .next u ∧
      step u = .next v ∧
      v.blk.result =
        if second.nowMs - first.nowMs < s.cfg.throttleMs then .usedCachedReading
        else if busy u.blk then .alreadyAcquiring else .acquiring

/-- R108: CONV_ACK, at its word, clears `convPending` in every state and writes nothing else. -/
def Obligations.ConvAckClearsPending : Prop :=
  decode 0x0002#14 = .ok .convAck ∧
  ∀ s : State, exec .convAck s = .next { s with blk := { s.blk with convPending := false } }

/-- R109: SRST, at its word, gives every field of `s` its reset value, in every state, and writes nothing else. -/
def Obligations.SrstResetsTheRecord : Prop :=
  decode 0x0003#14 = .ok .srst ∧
  ∀ s : State, exec .srst s = .next { s with
    blk :=
      { state := .stopped, status := .notStarted, result := .noStart, frame := ⟨0, 0, 0, 0, 0⟩,
        bitCur := 0, byteCur := 0, armed := false, driveLow := false, convPending := false,
        firstDone := false, lastEdge := 0, holdStart := 0, lastAcq := 0 } }

/-- R111: RD, at its words, completes at every address, answers the register there, and writes no field of `s`. -/
def Obligations.RdAnswersTheRegister : Prop :=
  (∀ a : Addr, decode (0b01#2 ++ a ++ 0x00#8) = .ok (.rd a)) ∧
  ∀ s : State,
    exec (.rd 0x0) s = .next { s with busRdata := 0x00 } ∧
    exec (.rd 0x1) s = .next { s with busRdata := s.blk.result.byte } ∧
    exec (.rd 0x2) s = .next { s with busRdata := s.blk.state.code.setWidth 8 } ∧
    exec (.rd 0x3) s = .next { s with busRdata := s.blk.status.byte } ∧
    exec (.rd 0x4) s = .next { s with
      busRdata := 0b000#3 ++ BitVec.ofBool s.blk.firstDone ++ BitVec.ofBool s.blk.driveLow ++
        BitVec.ofBool s.blk.armed ++ BitVec.ofBool s.blk.convPending ++
        BitVec.ofBool (decide (s.blk.state = .awaitingResponse ∨ s.blk.state = .receivingData)) } ∧
    exec (.rd 0x5) s = .next { s with busRdata := s.blk.frame.b0 } ∧
    exec (.rd 0x6) s = .next { s with busRdata := s.blk.frame.b1 } ∧
    exec (.rd 0x7) s = .next { s with busRdata := s.blk.frame.b2 } ∧
    exec (.rd 0x8) s = .next { s with busRdata := s.blk.frame.b3 } ∧
    exec (.rd 0x9) s = .next { s with busRdata := s.blk.frame.b4 } ∧
    exec (.rd 0xA) s = .next { s with busRdata := 0b0#1 ++ s.blk.byteCur ++ 0b0#1 ++ s.blk.bitCur } ∧
    (∀ a : Addr, 0xB ≤ a → exec (.rd a) s = .next { s with busRdata := 0x00 })

/-- R22, R23, R24: the codes of state, status and result as the host reads them. -/
def Obligations.CodesAsTheHostReadsThem : Prop :=
  ∀ b : Block,
    (regRead 0x2 b = match b.state with
      | .stopped => 0x00 | .awaitingResponse => 0x01 | .receivingData => 0x02 | .acquired => 0x03) ∧
    (regRead 0x3 b = match b.status with
      | .ok => 0x01 | .checksumError => 0xFF | .isrTimeout => 0xFE | .responseTimeout => 0xFD
      | .dataTimeout => 0xFC | .alreadyAcquiring => 0xFB | .deltaGlitch => 0xFA | .notStarted => 0xF9) ∧
    (regRead 0x1 b = match b.result with
      | .noStart => 0x00 | .acquiring => 0x02 | .usedCachedReading => 0x03 | .alreadyAcquiring => 0xFB)

/-- R37, R38: every bit of FLAGS and the fields of CURSOR, in every state, and that both read 0x00 after reset. -/
def Obligations.FlagsAndCursorLayout : Prop :=
  ∀ b : Block,
    (regRead 0x4 b).getLsbD 0 = busy b ∧
    (regRead 0x4 b).getLsbD 1 = b.convPending ∧
    (regRead 0x4 b).getLsbD 2 = b.armed ∧
    (regRead 0x4 b).getLsbD 3 = b.driveLow ∧
    (regRead 0x4 b).getLsbD 4 = b.firstDone ∧
    (regRead 0x4 b).extractLsb' 5 3 = 0#3 ∧
    (regRead 0xA b).extractLsb' 0 3 = b.bitCur ∧
    (regRead 0xA b).getLsbD 3 = false ∧
    (regRead 0xA b).extractLsb' 4 3 = b.byteCur ∧
    (regRead 0xA b).getLsbD 7 = false ∧
    regRead 0x4 Block.reset = 0x00#8 ∧ regRead 0xA Block.reset = 0x00#8

/-! ## The end of the trigger hold -/

/-- R105: RELEASE, at its word, when it is enabled, releases the line, captures the reference and arms edge detection,
and writes nothing else; when it is not, it writes no field of `s`. -/
def Obligations.ReleaseArmsEdgeDetection : Prop :=
  decode 0x3000#14 = .ok .release ∧ ∀ s : State,
    (s.blk.driveLow = true → s.cfg.holdUs ≤ s.tsUs - s.blk.holdStart →
      exec .release s = .next { s with
        blk := { s.blk with driveLow := false, lastEdge := s.tsUs, armed := true } }) ∧
    (s.blk.driveLow = false ∨ s.tsUs - s.blk.holdStart < s.cfg.holdUs →
      ∀ t, exec .release s = .next t → t.blk = s.blk)

/-- RELEASE is no step when it is not enabled: the line is not driven low, or the hold is not over. That the model
then answers the same state, and does not stop, is its choice (log 4). -/
def Obligations.ReleaseNotEnabledIsNoStep : Prop :=
  ∀ s : State, (s.blk.driveLow = false ∨ s.tsUs - s.blk.holdStart < s.cfg.holdUs) →
    exec .release s = .next s

/-- With no input waiting, a block that drives the line low releases it, at a time that meets R106 and, where the hold
is not over yet, at the first such time. That this is a step of the idle machine is the model's choice (log 3). -/
def Obligations.HoldTimerReleasesIdleBlock : Prop :=
  ∀ s : State, s.rst = false → s.pending = [] → s.blk.driveLow = true →
    ∃ t, step s = .next t ∧
      t.blk = { s.blk with driveLow := false, lastEdge := t.tsUs, armed := true } ∧
      s.cfg.holdUs ≤ t.tsUs - s.blk.holdStart ∧
      (s.tsUs - s.blk.holdStart < s.cfg.holdUs → t.tsUs = s.blk.holdStart + s.cfg.holdUs) ∧
      (s.cfg.holdUs ≤ s.tsUs - s.blk.holdStart → t.tsUs = s.tsUs)

/-- R107: the block drives the line low exactly from the START that issues a trigger until its RELEASE, which never
comes before the hold is over (R106), or until SRST. A START that issues a trigger drives the line low; an enabled
RELEASE and SRST release it; and no other operation, and none of these at another time, changes what the line does. -/
def Obligations.LineDrivenFromTriggerToRelease : Prop :=
  (∀ s : State, busy s.blk = false → ¬(s.blk.firstDone = true ∧ s.tsMs - s.blk.lastAcq < s.cfg.throttleMs) →
    ∃ t, exec .start s = .next t ∧ t.sigDriveLow = true) ∧
  (∀ s : State, s.sigDriveLow = true → s.cfg.holdUs ≤ s.tsUs - s.blk.holdStart →
    ∃ t, exec .release s = .next t ∧ t.sigDriveLow = false) ∧
  (∀ s : State, ∃ t, exec .srst s = .next t ∧ t.sigDriveLow = false) ∧
  (∀ (i : Instr) (s t : State), exec i s = .next t →
    t.sigDriveLow = s.sigDriveLow ∨
    (i = .start ∧ t.blk.result = .acquiring ∧ busy s.blk = false ∧
      ¬(s.blk.firstDone = true ∧ s.tsMs - s.blk.lastAcq < s.cfg.throttleMs) ∧ t.sigDriveLow = true) ∨
    (i = .release ∧ s.cfg.holdUs ≤ s.tsUs - s.blk.holdStart ∧ s.sigDriveLow = true ∧ t.sigDriveLow = false) ∨
    (i = .srst ∧ t.sigDriveLow = false))

/-! ## The edge classifier -/

/-- R132: an EDGE while disarmed has no effect. -/
def Obligations.DisarmedEdgeHasNoEffect : Prop :=
  ∀ s : State, s.blk.armed = false → exec .edge s = .next s

/-- R133: a delta above the stall threshold aborts with IsrTimeout, before any state-specific logic, in every state; a
delta that is not above it never does: where `status` reads IsrTimeout after it, it read so before, the block is still
armed, and an acquisition that it found running has not ended in Stopped. -/
def Obligations.StallGuardAborts : Prop :=
  ∀ s : State, s.blk.armed = true →
    (s.cfg.tStall < s.tsUs - s.blk.lastEdge →
      exec .edge s = .next { s with
        blk := { s.blk with lastEdge := s.tsUs, armed := false, status := .isrTimeout, state := .stopped } }) ∧
    (s.tsUs - s.blk.lastEdge ≤ s.cfg.tStall → ∀ t, exec .edge s = .next t → t.blk.status = .isrTimeout →
      s.blk.status = .isrTimeout ∧ t.blk.armed = true ∧ (t.blk.state = .stopped → s.blk.state = .stopped))

/-- R135: startup jitter changes nothing, and any number of jitter edges is measured from the same reference. -/
def Obligations.JitterEdgesRollBack : Prop :=
  (∀ s : State, s.blk.armed = true → s.blk.state = .awaitingResponse →
    s.tsUs - s.blk.lastEdge ≤ s.cfg.tStall → s.tsUs - s.blk.lastEdge < s.cfg.tJitter →
    exec .edge s = .next s) ∧
  (∀ (s : State) (times : List U32) (ms : U32) (rest : List Input), s.rst = false →
    s.blk.armed = true → s.blk.state = .awaitingResponse → s.cfg.tJitter ≤ s.cfg.tStall →
    (∀ us ∈ times, us - s.blk.lastEdge < s.cfg.tJitter) →
    s.pending = times.map (fun us => edgeInput us ms) ++ rest →
    ∃ t, run times.length s = .next t ∧ t.blk = s.blk ∧ t.pending = rest)

/-- R136: the response marker. With thresholds in the order of R9 the window alone decides. The cursors and the frame
stay as they are, which is zero in every state that meets the invariant. -/
def Obligations.ResponseEdgeBeginsData : Prop :=
  ∀ s : State, s.blk.armed = true → s.blk.state = .awaitingResponse →
    s.cfg.tRespLo < s.tsUs - s.blk.lastEdge → s.tsUs - s.blk.lastEdge < s.cfg.tRespHi →
    (s.tsUs - s.blk.lastEdge ≤ s.cfg.tStall ∧ s.cfg.tJitter ≤ s.tsUs - s.blk.lastEdge ∨
      s.cfg.ThresholdsLegal) →
    exec .edge s = .next { s with
      blk := { s.blk with lastEdge := s.tsUs, state := .receivingData } } ∧
    (Inv s → s.blk.byteCur = 0#3 ∧ s.blk.bitCur = 0#3 ∧ s.blk.frame = ⟨0, 0, 0, 0, 0⟩)

/-- R137: every other delta in AwaitingResponse aborts with ResponseTimeout. -/
def Obligations.LateOrEarlyResponseAborts : Prop :=
  ∀ s : State, s.blk.armed = true → s.blk.state = .awaitingResponse →
    s.tsUs - s.blk.lastEdge ≤ s.cfg.tStall → s.cfg.tJitter ≤ s.tsUs - s.blk.lastEdge →
    (s.tsUs - s.blk.lastEdge ≤ s.cfg.tRespLo ∨ s.cfg.tRespHi ≤ s.tsUs - s.blk.lastEdge) →
    exec .edge s = .next { s with
      blk := { s.blk with lastEdge := s.tsUs, armed := false, status := .responseTimeout, state := .stopped } }

/-- R138, R139, R160 to R165: a valid data edge shifts its bit into the current byte, most significant bit first, and
advances the cursors. The one that completes the fifth byte disarms edge detection, and the checksum decides between
Acquired with Ok and Stopped with ChecksumError. With thresholds in the order of R9 the data window alone decides. -/
def Obligations.ValidDataEdgeShiftsAndValidates : Prop :=
  ∀ s : State, s.blk.armed = true → s.blk.state = .receivingData → s.blk.byteCur ≤ 4#3 →
    s.cfg.tBitLo < s.tsUs - s.blk.lastEdge → s.tsUs - s.blk.lastEdge < s.cfg.tBitHi →
    (s.tsUs - s.blk.lastEdge ≤ s.cfg.tStall ∨ s.cfg.ThresholdsLegal) →
    let bit : Byte := if s.cfg.tOne ≤ s.tsUs - s.blk.lastEdge then 1#8 else 0#8
    let f := s.blk.frame
    let i := s.blk.byteCur
    let g : Frame :=
      { b0 := if i = 0#3 then (f.b0 <<< 1) ||| bit else f.b0
        b1 := if i = 1#3 then (f.b1 <<< 1) ||| bit else f.b1
        b2 := if i = 2#3 then (f.b2 <<< 1) ||| bit else f.b2
        b3 := if i = 3#3 then (f.b3 <<< 1) ||| bit else f.b3
        b4 := if i = 4#3 then (f.b4 <<< 1) ||| bit else f.b4 }
    let b : Block := { s.blk with lastEdge := s.tsUs, frame := g }
    (s.blk.bitCur < 7#3 →
      exec .edge s = .next { s with blk := { b with bitCur := s.blk.bitCur + 1 } }) ∧
    (s.blk.bitCur = 7#3 → i < 4#3 →
      exec .edge s = .next { s with blk := { b with bitCur := 0, byteCur := i + 1 } }) ∧
    (s.blk.bitCur = 7#3 → i = 4#3 → g.b4 = g.b0 + g.b1 + g.b2 + g.b3 →
      exec .edge s = .next { s with
        blk := { b with
          bitCur := 0, byteCur := 5, armed := false, status := .ok, state := .acquired, convPending := true } }) ∧
    (s.blk.bitCur = 7#3 → i = 4#3 → g.b4 ≠ g.b0 + g.b1 + g.b2 + g.b3 →
      exec .edge s = .next { s with
        blk := { b with bitCur := 0, byteCur := 5, armed := false, status := .checksumError, state := .stopped } })

/-- R140: a delta outside the data window and below the glitch floor aborts with DeltaGlitch, and with thresholds in
the order of R9 every delta below the floor does. -/
def Obligations.GlitchAborts : Prop :=
  ∀ s : State, s.blk.armed = true → s.blk.state = .receivingData →
    s.tsUs - s.blk.lastEdge < s.cfg.tGlitch →
    (s.tsUs - s.blk.lastEdge ≤ s.cfg.tStall ∧
        ¬(s.cfg.tBitLo < s.tsUs - s.blk.lastEdge ∧ s.tsUs - s.blk.lastEdge < s.cfg.tBitHi) ∨
      s.cfg.ThresholdsLegal) →
    exec .edge s = .next { s with
      blk := { s.blk with lastEdge := s.tsUs, armed := false, status := .deltaGlitch, state := .stopped } }

/-- R141: every other delta not above the stall threshold aborts with DataTimeout; with thresholds in the order of R9
these are the two bands that the rule names. -/
def Obligations.DataTimeoutAborts : Prop :=
  ∀ s : State, s.blk.armed = true → s.blk.state = .receivingData →
    (s.tsUs - s.blk.lastEdge ≤ s.cfg.tStall ∧ s.cfg.tGlitch ≤ s.tsUs - s.blk.lastEdge ∧
        ¬(s.cfg.tBitLo < s.tsUs - s.blk.lastEdge ∧ s.tsUs - s.blk.lastEdge < s.cfg.tBitHi) ∨
      s.cfg.ThresholdsLegal ∧
        (s.cfg.tGlitch ≤ s.tsUs - s.blk.lastEdge ∧ s.tsUs - s.blk.lastEdge ≤ s.cfg.tBitLo ∨
          s.cfg.tBitHi ≤ s.tsUs - s.blk.lastEdge ∧ s.tsUs - s.blk.lastEdge ≤ s.cfg.tStall)) →
    exec .edge s = .next { s with
      blk := { s.blk with lastEdge := s.tsUs, armed := false, status := .dataTimeout, state := .stopped } }

/-- R142: no state that meets the invariant is terminal and armed. In such a state, which no run reaches, a delta not
above the stall threshold changes nothing, and the stall guard comes first. -/
def Obligations.ArmedTerminalEdgeChangesNothing : Prop :=
  ∀ s : State, (s.blk.state = .acquired ∨ s.blk.state = .stopped) →
    (Inv s → s.blk.armed = false) ∧
    (s.blk.armed = true → s.tsUs - s.blk.lastEdge ≤ s.cfg.tStall → exec .edge s = .next s) ∧
    (s.blk.armed = true → s.cfg.tStall < s.tsUs - s.blk.lastEdge →
      exec .edge s = .next { s with
        blk := { s.blk with lastEdge := s.tsUs, armed := false, status := .isrTimeout, state := .stopped } })

/-- A data bit accepted with the cursor past the frame, in states no run reaches, is the model's one fault (its choice,
log 10). -/
def Obligations.CursorPastFrameFaults : Prop :=
  ∀ s : State, s.blk.armed = true → s.blk.state = .receivingData → 5#3 ≤ s.blk.byteCur →
    s.tsUs - s.blk.lastEdge ≤ s.cfg.tStall →
    s.cfg.tBitLo < s.tsUs - s.blk.lastEdge → s.tsUs - s.blk.lastEdge < s.cfg.tBitHi →
    exec .edge s = .fault .cursorPastFrame

/-- R143: with the default thresholds, the outcome of an armed EDGE for every delta, in each of the two busy states. -/
def Obligations.DefaultThresholdTable : Prop :=
  ∀ (s : State) (v : Variant) (thr d : U32), Inv s → s.cfg = Params.defaults v thr → s.blk.armed = true →
    d = s.tsUs - s.blk.lastEdge →
    ∃ t, exec .edge s = .next t ∧
      (s.blk.state = .awaitingResponse →
        (d ≤ 64#32 → t = s) ∧
        (65#32 ≤ d ∧ d ≤ 125#32 ∨ 200#32 ≤ d ∧ d ≤ 6000#32 →
          t.blk.state = .stopped ∧ t.blk.status = .responseTimeout) ∧
        (126#32 ≤ d ∧ d ≤ 199#32 → t.blk.state = .receivingData ∧ t.blk.status = s.blk.status) ∧
        (6001#32 ≤ d → t.blk.state = .stopped ∧ t.blk.status = .isrTimeout)) ∧
      (s.blk.state = .receivingData →
        (d ≤ 9#32 → t.blk.state = .stopped ∧ t.blk.status = .deltaGlitch) ∧
        (10#32 ≤ d ∧ d ≤ 60#32 ∨ 155#32 ≤ d ∧ d ≤ 6000#32 →
          t.blk.state = .stopped ∧ t.blk.status = .dataTimeout) ∧
        (61#32 ≤ d ∧ d ≤ 109#32 →
          some t.blk.frame = s.blk.frame.modify s.blk.byteCur (fun x => x <<< 1)) ∧
        (110#32 ≤ d ∧ d ≤ 154#32 →
          some t.blk.frame = s.blk.frame.modify s.blk.byteCur (fun x => (x <<< 1) ||| 1#8)) ∧
        (6001#32 ≤ d → t.blk.state = .stopped ∧ t.blk.status = .isrTimeout))

/-! ## Errors -/

/-- R201: when an EDGE ends an acquisition in Stopped, the status, the cause and what stays recorded are those of one
row of the cause table, for ChecksumError the frame with the fortieth bit shifted in; and no other operation writes an
error status. -/
def Obligations.ErrorStatusHasItsCause : Prop :=
  (∀ s t : State, Inv s → exec .edge s = .next t → s.blk.state ≠ .stopped → t.blk.state = .stopped →
    let d := s.tsUs - s.blk.lastEdge
    let window := s.cfg.tBitLo < d ∧ d < s.cfg.tBitHi
    let kept := t.blk.frame = s.blk.frame ∧ t.blk.byteCur = s.blk.byteCur ∧ t.blk.bitCur = s.blk.bitCur
    s.blk.armed = true ∧ busy s.blk = true ∧
    ((t.blk.status = .isrTimeout ∧ s.cfg.tStall < d ∧ kept) ∨
      (t.blk.status = .responseTimeout ∧ s.blk.state = .awaitingResponse ∧ s.cfg.tJitter ≤ d ∧
        d ≤ s.cfg.tStall ∧ ¬(s.cfg.tRespLo < d ∧ d < s.cfg.tRespHi) ∧
        t.blk.frame = ⟨0, 0, 0, 0, 0⟩ ∧ t.blk.byteCur = 0 ∧ t.blk.bitCur = 0) ∨
      (t.blk.status = .dataTimeout ∧ s.blk.state = .receivingData ∧ s.cfg.tGlitch ≤ d ∧
        d ≤ s.cfg.tStall ∧ ¬window ∧ kept) ∨
      (t.blk.status = .deltaGlitch ∧ s.blk.state = .receivingData ∧ d < s.cfg.tGlitch ∧
        d ≤ s.cfg.tStall ∧ ¬window ∧ kept) ∨
      (t.blk.status = .checksumError ∧ s.blk.state = .receivingData ∧ window ∧ d ≤ s.cfg.tStall ∧
        s.blk.byteCur = 4 ∧ s.blk.bitCur = 7 ∧
        t.blk.frame =
          { s.blk.frame with b4 := (s.blk.frame.b4 <<< 1) ||| (if s.cfg.tOne ≤ d then 1#8 else 0#8) } ∧
        t.blk.frame.b4 ≠ t.blk.frame.b0 + t.blk.frame.b1 + t.blk.frame.b2 + t.blk.frame.b3 ∧
        t.blk.byteCur = 5 ∧ t.blk.bitCur = 0))) ∧
  (∀ (i : Instr) (s t : State), exec i s = .next t → i ≠ .edge →
    t.blk.status = s.blk.status ∨ i = .srst ∧ t.blk.status = .notStarted)

/-- R208: an abort is precise. Of all fields only those of R203 and `lastEdge` change, and no error, a checksum error
included, touches `convPending`. -/
def Obligations.AbortsArePrecise : Prop :=
  ∀ s t : State, exec .edge s = .next t → s.blk.state ≠ .stopped → t.blk.state = .stopped →
    t.blk.convPending = s.blk.convPending ∧
    (t.blk.status ≠ .checksumError →
      t = { s with
        blk := { s.blk with armed := false, status := t.blk.status, state := .stopped, lastEdge := s.tsUs } })

/-! ## Whole-machine rules -/

/-- R41: which operations write which field of `s`. Beside R41, and the model's choices: only RD writes `bus_rdata`,
which holds its value otherwise (log 5), and no operation by itself changes the recorded level of `sig_in`, an EDGE word
included (log 7). -/
def Obligations.OnlyOwnersWriteFields : Prop :=
  ∀ (i : Instr) (s t : State), exec i s = .next t →
    (t.blk.state ≠ s.blk.state → i = .start ∨ i = .srst ∨ i = .edge) ∧
    (t.blk.status ≠ s.blk.status → i = .srst ∨ i = .edge) ∧
    (t.blk.result ≠ s.blk.result → i = .start ∨ i = .srst) ∧
    (t.blk.frame ≠ s.blk.frame → i = .start ∨ i = .srst ∨ i = .edge) ∧
    (t.blk.bitCur ≠ s.blk.bitCur → i = .start ∨ i = .srst ∨ i = .edge) ∧
    (t.blk.byteCur ≠ s.blk.byteCur → i = .start ∨ i = .srst ∨ i = .edge) ∧
    (t.blk.armed ≠ s.blk.armed → i = .srst ∨ i = .release ∧ t.blk.armed = true ∨ i = .edge ∧ t.blk.armed = false) ∧
    (t.blk.driveLow ≠ s.blk.driveLow →
      i = .srst ∨ i = .start ∧ t.blk.driveLow = true ∨ i = .release ∧ t.blk.driveLow = false) ∧
    (t.blk.convPending ≠ s.blk.convPending →
      i = .srst ∨ i = .convAck ∧ t.blk.convPending = false ∨ i = .edge ∧ t.blk.convPending = true) ∧
    (t.blk.firstDone ≠ s.blk.firstDone → i = .start ∨ i = .srst) ∧
    (t.blk.lastEdge ≠ s.blk.lastEdge → i = .srst ∨ i = .release ∨ i = .edge) ∧
    (t.blk.holdStart ≠ s.blk.holdStart → i = .start ∨ i = .srst) ∧
    (t.blk.lastAcq ≠ s.blk.lastAcq → i = .start ∨ i = .srst) ∧
    (t.busRdata ≠ s.busRdata → ∃ a, i = .rd a) ∧
    t.cfg = s.cfg ∧ t.tsUs = s.tsUs ∧ t.tsMs = s.tsMs ∧ t.rst = s.rst ∧ t.sigIn = s.sigIn ∧ t.pending = s.pending

/-- R212: the transition table, whole. From every state that meets the invariant each operation completes, and leaves
state, driveLow, armed and status as its row says. R212 has no row for a RELEASE that is not enabled: that it completes,
with the state unchanged, is the model's choice (log 4). -/
def Obligations.TransitionTable : Prop :=
  ∀ (i : Instr) (s : State), Inv s →
    let b := s.blk
    let d := s.tsUs - b.lastEdge
    let same := (b.state, b.driveLow, b.armed, b.status)
    let last := (b.frame.b4 <<< 1) ||| (if s.cfg.tOne ≤ d then 1#8 else 0#8)
    ∃ t, exec i s = .next t ∧
      (t.blk.state, t.blk.driveLow, t.blk.armed, t.blk.status) =
        match i with
        | .start =>
          if b.firstDone = true ∧ s.tsMs - b.lastAcq < s.cfg.throttleMs then same
          else if busy b then same
          else (.awaitingResponse, true, false, b.status)
        | .release =>
          if b.driveLow = true ∧ s.cfg.holdUs ≤ s.tsUs - b.holdStart then
            (.awaitingResponse, false, true, b.status)
          else same
        | .edge =>
          if b.armed = false then same
          else if s.cfg.tStall < d then (.stopped, false, false, .isrTimeout)
          else if b.state = .awaitingResponse then
            if d < s.cfg.tJitter then same
            else if s.cfg.tRespLo < d ∧ d < s.cfg.tRespHi then (.receivingData, false, true, b.status)
            else (.stopped, false, false, .responseTimeout)
          else if s.cfg.tBitLo < d ∧ d < s.cfg.tBitHi then
            if b.byteCur = 4#3 ∧ b.bitCur = 7#3 then
              if last = b.frame.b0 + b.frame.b1 + b.frame.b2 + b.frame.b3 then (.acquired, false, false, .ok)
              else (.stopped, false, false, .checksumError)
            else (.receivingData, false, true, b.status)
          else if d < s.cfg.tGlitch then (.stopped, false, false, .deltaGlitch)
          else (.stopped, false, false, .dataTimeout)
        | .srst => (.stopped, false, false, .notStarted)
        | .nop => same
        | .convAck => same
        | .cmdRsvd _ => same
        | .rd _ => same
        | .wrNoCmd _ _ => same

/-- What each operation may change in the host's register view: every address not named reads as before. -/
def Obligations.RegisterViewFrame : Prop :=
  ∀ (i : Instr) (s t : State) (a : Addr), exec i s = .next t →
    regRead a t.blk = regRead a s.blk ∨
    match i with
    | .nop => False
    | .cmdRsvd _ => False
    | .wrNoCmd _ _ => False
    | .rd _ => False
    | .convAck => a = 0x4
    | .release => a = 0x4
    | .start => a = 0x1 ∨ (a ≠ 0x3 ∧ 0x2 ≤ a ∧ a ≤ 0xA ∧ t.blk.result = .acquiring)
    | .edge => 0x2 ≤ a ∧ a ≤ 0xA ∧ s.blk.armed = true
    | .srst => 0x1 ≤ a ∧ a ≤ 0xA

/-- Every operation completes from every state whose record meets the invariant, and leaves one that does. For a RELEASE
that is not enabled, which R105 gives no step, completing is the model's choice (log 4). -/
def Obligations.EveryOperationCompletes : Prop :=
  ∀ (i : Instr) (s : State), BlockInv s.blk → ∃ t, exec i s = .next t ∧ BlockInv t.blk

/-- The invariant holds right after reset, for every configuration. -/
def Obligations.ResetMeetsInvariant : Prop :=
  (∀ p : Params, Inv (State.resetWith p)) ∧ Inv State.reset

/-- R35, and what R23, R114, R136, R160, R201 and R232 rely on: every step from a state that meets the invariant gives
a state that meets it. -/
def Obligations.StepKeepsInvariant : Prop :=
  ∀ s t : State, Inv s → step s = .next t → Inv t

/-- R35: every state that the operations reach from reset, under any configuration and any inputs, satisfies (I1) to
(I6). -/
def Obligations.ReachableStatesSatisfyR35 : Prop :=
  ∀ (p : Params) (inputs : List Input) (n : Nat) (t : State),
    run n { State.resetWith p with pending := inputs } = .next t →
    let b := t.blk
    (b.armed = true → busy b = true ∧ b.driveLow = false) ∧
    (b.driveLow = true → b.state = .awaitingResponse ∧ b.armed = false) ∧
    (busy b = true → (b.driveLow = true ∧ b.armed = false) ∨ (b.driveLow = false ∧ b.armed = true)) ∧
    (b.state = .receivingData → b.byteCur ≤ 4#3) ∧
    (b.state = .awaitingResponse → b.byteCur = 0#3 ∧ b.bitCur = 0#3) ∧
    (b.state = .acquired →
      b.status = .ok ∧ b.byteCur = 5#3 ∧ b.bitCur = 0#3 ∧
        b.frame.b4 = b.frame.b0 + b.frame.b1 + b.frame.b2 + b.frame.b3) ∧
    (b.byteCur = 5#3 → b.bitCur = 0#3 ∧ busy b = false)

/-- From a state that meets the invariant, with no INVALID word among the inputs, the machine runs for ever: no fault, no
refusal, and the invariant holds throughout. That an idle machine and a RELEASE that is not enabled take a step are the
model's choices (logs 3, 4). -/
def Obligations.ValidInputsRunSafely : Prop :=
  ∀ (n : Nat) (s : State), Inv s → (∀ inp ∈ s.pending, inp.valid = true) → SafeRun n s

/-- R62: once STATE reads Acquired, every later read of RESULT, STATUS and FRAME0 to FRAME4 gives the value held when it
did, STATUS reads Ok and the checksum matches, whatever happens but START, SRST and `rst`. -/
def Obligations.AcquiredFrameIsFrozen : Prop :=
  ∀ (n : Nat) (s t : State), Inv s → s.rst = false → regRead 0x2 s.blk = 0x03#8 →
    (∀ inp ∈ s.pending, inp.starts = false ∧ inp.resets = false) →
    run n s = .next t →
    (∀ a : Addr, a = 0x1 ∨ a = 0x2 ∨ a = 0x3 ∨ (0x5 ≤ a ∧ a ≤ 0x9) → regRead a t.blk = regRead a s.blk) ∧
    regRead 0x3 t.blk = 0x01#8 ∧
    t.blk.frame = s.blk.frame ∧
    t.blk.frame.b4 = t.blk.frame.b0 + t.blk.frame.b1 + t.blk.frame.b2 + t.blk.frame.b3

/-- R238: with no edge, no SRST and no `rst`, a busy block stays busy for ever, in the same state; every START past the
throttle answers AlreadyAcquiring. The steps may be those of the idle machine, the model's choice (log 3). -/
def Obligations.StallLastsUntilEdgeOrReset : Prop :=
  ∀ (n : Nat) (s t : State), Inv s → s.rst = false → busy s.blk = true →
    (∀ inp ∈ s.pending, inp.mayEdge = false ∧ inp.resets = false) →
    run n s = .next t →
    busy t.blk = true ∧ t.blk.state = s.blk.state ∧
    (t.cfg.throttleMs ≤ t.tsMs - t.blk.lastAcq →
      exec .start t = .next { t with blk := { t.blk with result := .alreadyAcquiring } })

/-- R55, R56, R160 to R166, R168: from the response edge on, forty edges whose deltas encode the bits of a frame, most
significant bit and first byte first, are received as exactly that frame; the block stays in ReceivingData until the
fortieth, and then accepts the frame if and only if its checksum matches. -/
def Obligations.FortyDataEdgesReceiveTheFrame : Prop :=
  ∀ (s : State) (f : Frame) (deltas : List U32) (ms : U32) (rest : List Input), s.rst = false →
    s.blk.armed = true → s.blk.state = .receivingData → s.blk.byteCur = 0#3 → s.blk.bitCur = 0#3 →
    EncodeBits s.cfg (frameBits f) deltas →
    s.pending = edgeInputs ms s.blk.lastEdge deltas ++ rest →
    (∀ k, k < 40 → ∃ u, run k s = .next u ∧ u.blk.state = .receivingData) ∧
    ∃ t, run 40 s = .next t ∧ t.pending = rest ∧
      t.blk.frame = f ∧ t.blk.byteCur = 5#3 ∧ t.blk.bitCur = 0#3 ∧ t.blk.armed = false ∧
      (f.b4 = f.b0 + f.b1 + f.b2 + f.b3 →
        t.blk.state = .acquired ∧ t.blk.status = .ok ∧ t.blk.convPending = true) ∧
      (f.b4 ≠ f.b0 + f.b1 + f.b2 + f.b3 →
        t.blk.state = .stopped ∧ t.blk.status = .checksumError ∧ t.blk.convPending = s.blk.convPending)

/-- R168: flipping one bit of one of bytes 0 to 3, with byte 4 left as it is, turns a frame that passes the checksum
validator into one that does not. -/
def Obligations.SingleBitFlipFailsChecksum : Prop :=
  ∀ (f : Frame) (k : Nat), k < 8 → f.checksumOk = true →
    ({ f with b0 := f.b0 ^^^ (1#8 <<< k) } : Frame).checksumOk = false ∧
    ({ f with b1 := f.b1 ^^^ (1#8 <<< k) } : Frame).checksumOk = false ∧
    ({ f with b2 := f.b2 ^^^ (1#8 <<< k) } : Frame).checksumOk = false ∧
    ({ f with b3 := f.b3 ^^^ (1#8 <<< k) } : Frame).checksumOk = false

/-- R207: simultaneous operations that end in the same state in either order. SRST with EDGE or RELEASE: always. START
with RELEASE: where START issues no trigger, or the hold is not zero. START with EDGE: where START is throttled, or the
EDGE is disarmed, or it leaves the block busy. RELEASE with EDGE: where RELEASE is not enabled, or the jitter ceiling is
not zero. R207 claims every case; those left out do not follow from the operation rules (log 11). -/
def Obligations.SimultaneousOperationsCommute : Prop :=
  ∀ s : State, Inv s → s.rst = false →
    (∃ u u' v, exec .srst s = .next u ∧ exec .edge u = .next v ∧ exec .edge s = .next u' ∧ exec .srst u' = .next v) ∧
    (∃ u u' v, exec .srst s = .next u ∧ exec .release u = .next v ∧
      exec .release s = .next u' ∧ exec .srst u' = .next v) ∧
    (0#32 < s.cfg.holdUs ∨ busy s.blk = true ∨
        s.blk.firstDone = true ∧ s.tsMs - s.blk.lastAcq < s.cfg.throttleMs →
      ∃ u u' v, exec .start s = .next u ∧ exec .release u = .next v ∧
        exec .release s = .next u' ∧ exec .start u' = .next v) ∧
    (s.blk.firstDone = true ∧ s.tsMs - s.blk.lastAcq < s.cfg.throttleMs ∨ s.blk.armed = false ∨
        (∃ t, exec .edge s = .next t ∧ busy t.blk = true) →
      ∃ u u' v, exec .start s = .next u ∧ exec .edge u = .next v ∧ exec .edge s = .next u' ∧ exec .start u' = .next v) ∧
    (0#32 < s.cfg.tJitter ∨ s.blk.driveLow = false ∨ s.tsUs - s.blk.holdStart < s.cfg.holdUs →
      ∃ u u' v, exec .release s = .next u ∧ exec .edge u = .next v ∧
        exec .edge s = .next u' ∧ exec .release u' = .next v)

/-- Where START is not throttled and an armed EDGE ends the acquisition, the order of the two matters, against R207's
words: START first is turned away and the block ends idle, EDGE first lets START begin a new acquisition. Some such
state has a legal configuration. With SimultaneousOperationsCommute this says exactly where START and EDGE commute. That
the model follows R101 and R130 here is its choice (log 11). -/
def Obligations.StartEdgeOrderCanMatter : Prop :=
  (∃ s u u' v v' : State, Inv s ∧ s.cfg.Legal ∧
    exec .start s = .next u ∧ exec .edge u = .next v ∧
    exec .edge s = .next u' ∧ exec .start u' = .next v' ∧
    v.blk.state = .stopped ∧ v'.blk.state = .awaitingResponse) ∧
  (∀ s u' : State, Inv s → ¬(s.blk.firstDone = true ∧ s.tsMs - s.blk.lastAcq < s.cfg.throttleMs) →
    s.blk.armed = true → exec .edge s = .next u' → busy u'.blk = false →
    ∃ u v v', exec .start s = .next u ∧ exec .edge u = .next v ∧ exec .start u' = .next v' ∧
      v.blk.result = .alreadyAcquiring ∧ v.blk.state = u'.blk.state ∧
      v'.blk.result = .acquiring ∧ v'.blk.state = .awaitingResponse)

/-! ## The consumer's view -/

/-- R184, R185: how a consumer reads a frame, in tenths of a unit; R183, R186: the value of each quantity that a getter
may ask for, in hundredths, the dew points being what the consumer's formulas make of the reading. -/
def Obligations.FrameInterpretation : Prop :=
  (∀ f : Frame,
    (interpret .dht11 f).humidityTenths = f.b0.toNat * 10 ∧
    (interpret .dht11 f).celsiusTenths = f.b2.toNat * 10 ∧
    (∀ v, v = .dht21 ∨ v = .dht22 →
      (interpret v f).humidityTenths = ((f.b0 ++ f.b1).toNat : Int) ∧
      (interpret v f).celsiusTenths =
        (if f.b2.getLsbD 7 then -((f.b2.extractLsb' 0 7 ++ f.b3).toNat : Int)
          else ((f.b2.extractLsb' 0 7 ++ f.b3).toNat : Int)))) ∧
  (∀ (d : DewFormulas) (r : Reading),
    r.value d .humidity = r.humidityTenths * 10 ∧
    r.value d .celsius = r.celsiusTenths * 10 ∧
    5 * r.value d .fahrenheit = 9 * r.value d .celsius + 5 * 3200 ∧
    r.value d .kelvin = r.value d .celsius + 27315 ∧
    r.value d .dewPoint = d.fast r ∧
    r.value d .dewPointSlow = d.slow r)

/-- R180: IS_ACQUIRING is true exactly when the state is neither Acquired nor Stopped, which is when STATE reads 1 or 2;
it agrees with the `busy` port, and its one operation writes no field of `s`. GET_STATUS is the status byte. -/
def Obligations.PollingPredicates : Prop :=
  ∀ s : State,
    (isAcquiring s = true ↔ s.blk.state ≠ .acquired ∧ s.blk.state ≠ .stopped) ∧
    (isAcquiring s = true ↔ regRead 0x2 s.blk = 0x01#8 ∨ regRead 0x2 s.blk = 0x02#8) ∧
    isAcquiring s = s.busyPort ∧
    (∃ t, exec (.rd 0x4) s = .next t ∧ t.blk = s.blk ∧ t.busRdata.getLsbD 0 = isAcquiring s) ∧
    getStatus s = s.blk.status.byte

/-- R183: the getter protocol, for every quantity, when no other operation comes between its own: the answer, the
converted values that the consumer holds after it, and the machine after it. Stopped gives the last terminal status as an
error, a busy block an error of its own; an accepted frame is converted and acknowledged if a conversion is pending, and
else the value comes from what was converted last. That `bus_rdata` ends at the last byte read is log 5. -/
def Obligations.GetterProtocol : Prop :=
  ∀ (v : Variant) (d : DewFormulas) (q : Quantity) (cached : Reading) (s : State), s.rst = false →
    (s.blk.state = .stopped →
      getValue v d q (fun _ => 0) cached s =
        some ⟨.error s.blk.status.byte, cached, { s with busRdata := s.blk.status.byte }⟩) ∧
    (busy s.blk = true →
      getValue v d q (fun _ => 0) cached s =
        some ⟨.inProgress, cached, { s with busRdata := s.blk.state.code.setWidth 8 }⟩) ∧
    (s.blk.state = .acquired → s.blk.convPending = true →
      getValue v d q (fun _ => 0) cached s =
        some ⟨.value ((interpret v s.blk.frame).value d q), interpret v s.blk.frame,
          { s with busRdata := s.blk.frame.b4, blk := { s.blk with convPending := false } }⟩) ∧
    (s.blk.state = .acquired → s.blk.convPending = false →
      getValue v d q (fun _ => 0) cached s =
        some ⟨.value (cached.value d q), cached, { s with busRdata := regRead 0x4 s.blk }⟩)

/-- R182: ACQUIRE_WAIT whose START answers UsedCachedReading while no acquisition is in flight ends at its first poll and
returns the held status, whatever it is. Its last operation is RD STATUS, so `bus_rdata` holds that status. -/
def Obligations.CachedAcquireWaitEndsAtOnce : Prop :=
  ∀ (polls : List Nat) (s : State), s.rst = false → busy s.blk = false → s.blk.firstDone = true →
    s.tsMs - s.blk.lastAcq < s.cfg.throttleMs →
    acquireWait (0 :: polls) 0 s =
      some (s.blk.status.byte,
        { s with busRdata := s.blk.status.byte, blk := { s.blk with result := .usedCachedReading } })

/-- An enabled RELEASE and an EDGE at one time do not commute where the jitter ceiling is zero, which R9 allows; nor do a
START that issues a trigger and RELEASE where the hold is zero, which R9 does not allow; both against R207's words. With
SimultaneousOperationsCommute this says exactly where these pairs commute. That the model follows R101, R105 and R130
here is its choice (log 11). -/
def Obligations.ReleaseEdgeOrderCanMatter : Prop :=
  (∃ s u u' v v' : State, Inv s ∧ s.cfg.Legal ∧
    exec .release s = .next u ∧ exec .edge u = .next v ∧
    exec .edge s = .next u' ∧ exec .release u' = .next v' ∧
    v.blk.state = .stopped ∧ v'.blk.state = .awaitingResponse) ∧
  (∀ s : State, Inv s → s.cfg.tJitter = 0#32 → s.blk.driveLow = true → s.cfg.holdUs ≤ s.tsUs - s.blk.holdStart →
    ∃ u u' v v', exec .release s = .next u ∧ exec .edge u = .next v ∧
      exec .edge s = .next u' ∧ exec .release u' = .next v' ∧
      v.blk.state = .stopped ∧ v.blk.status = .responseTimeout ∧
      v'.blk.state = .awaitingResponse ∧ v'.blk.armed = true) ∧
  (∀ s : State, Inv s → s.cfg.holdUs = 0#32 → busy s.blk = false →
    ¬(s.blk.firstDone = true ∧ s.tsMs - s.blk.lastAcq < s.cfg.throttleMs) →
    ∃ u u' v v', exec .start s = .next u ∧ exec .release u = .next v ∧
      exec .release s = .next u' ∧ exec .start u' = .next v' ∧
      v.blk.armed = true ∧ v.sigDriveLow = false ∧ v'.blk.armed = false ∧ v'.sigDriveLow = true)

/-- R182, R238: ACQUIRE_WAIT returns the STATUS byte that it read, and where nothing comes between its last poll and that
read the block is idle then; with no edge, SRST or `rst` among the inputs and an acquisition in flight after its START,
no number of polls ends it. -/
def Obligations.AcquireWaitFollowsTheDecoder : Prop :=
  (∀ (polls : List Nat) (last : Nat) (s t : State) (status : Byte), Inv s →
    acquireWait polls last s = some (status, t) →
      status = t.blk.status.byte ∧ t.busRdata = status ∧ (last = 0 → busy t.blk = false)) ∧
  (∀ (polls : List Nat) (last : Nat) (s : State), Inv s → s.rst = false →
    (busy s.blk = true ∨ ¬(s.blk.firstDone = true ∧ s.tsMs - s.blk.lastAcq < s.cfg.throttleMs)) →
    (∀ inp ∈ s.pending, inp.mayEdge = false ∧ inp.resets = false) →
    acquireWait polls last s = none)

/-- R62, R183: a getter on an accepted frame whose conversion is pending reads one whole frame, converts it and
acknowledges it, however many other operations come between its own, as long as none is START, SRST, CONV_ACK or an
assertion of `rst`, nor an INVALID word. -/
def Obligations.GetterReadsOneFrame : Prop :=
  ∀ (v : Variant) (d : DewFormulas) (q : Quantity) (wait : Nat → Nat) (cached : Reading) (s : State), Inv s →
    s.rst = false → s.blk.state = .acquired → s.blk.convPending = true →
    (∀ inp ∈ s.pending, inp.valid = true ∧ inp.starts = false ∧ inp.resets = false ∧
      inp.stim.instr ≠ some .convAck) →
    ∃ t, getValue v d q wait cached s =
        some ⟨.value ((interpret v s.blk.frame).value d q), interpret v s.blk.frame, t⟩ ∧
      t.blk = { s.blk with convPending := false }

/-- R207: the races whose order matters to what is seen. CONV_ACK and the EDGE that completes a good frame leave
`convPending` 1 if CONV_ACK comes first and 0 if it comes after. RD and EDGE leave the same record in either order, and
RD returns the value before the EDGE or the one after it. That `bus_rdata` still holds that value after an EDGE, which
answers no read, is the model's choice (log 5). -/
def Obligations.RacesWithAnEdge : Prop :=
  (∀ s e : State, exec .edge s = .next e → s.blk.state ≠ .acquired → e.blk.state = .acquired →
    ∃ a t u, exec .convAck s = .next a ∧ exec .edge a = .next t ∧ t.blk.convPending = true ∧
      exec .convAck e = .next u ∧ u.blk.convPending = false ∧
      u.blk = { t.blk with convPending := false }) ∧
  (∀ (a : Addr) (s e : State), exec .edge s = .next e →
    ∃ r t u, exec (.rd a) s = .next r ∧ exec .edge r = .next t ∧ exec (.rd a) e = .next u ∧
      r.busRdata = regRead a s.blk ∧ t.busRdata = regRead a s.blk ∧ u.busRdata = regRead a e.blk ∧
      t.blk = u.blk)
end

