-- ==== Sys2Proof/Laws/Block.lean ====
section
/-! SUPPORT. One lemma for each field of the record `s` under each named operation on it. -/

namespace Sys2Proof.Machine

@[simp] theorem abort_state (code : Status) (b : Block) : (abort code b).state = .stopped := rfl

@[simp] theorem abort_status (code : Status) (b : Block) : (abort code b).status = code := rfl

@[simp] theorem abort_result (code : Status) (b : Block) : (abort code b).result = b.result := rfl

@[simp] theorem abort_frame (code : Status) (b : Block) : (abort code b).frame = b.frame := rfl

@[simp] theorem abort_bitCur (code : Status) (b : Block) : (abort code b).bitCur = b.bitCur := rfl

@[simp] theorem abort_byteCur (code : Status) (b : Block) : (abort code b).byteCur = b.byteCur := rfl

@[simp] theorem abort_armed (code : Status) (b : Block) : (abort code b).armed = false := rfl

@[simp] theorem abort_driveLow (code : Status) (b : Block) : (abort code b).driveLow = b.driveLow := rfl

@[simp] theorem abort_convPending (code : Status) (b : Block) : (abort code b).convPending = b.convPending := rfl

@[simp] theorem abort_firstDone (code : Status) (b : Block) : (abort code b).firstDone = b.firstDone := rfl

@[simp] theorem abort_lastEdge (code : Status) (b : Block) : (abort code b).lastEdge = b.lastEdge := rfl

@[simp] theorem abort_holdStart (code : Status) (b : Block) : (abort code b).holdStart = b.holdStart := rfl

@[simp] theorem abort_lastAcq (code : Status) (b : Block) : (abort code b).lastAcq = b.lastAcq := rfl

@[simp] theorem setResult_state (r : StartResult) (b : Block) : (setResult r b).state = b.state := rfl

@[simp] theorem setResult_status (r : StartResult) (b : Block) : (setResult r b).status = b.status := rfl

@[simp] theorem setResult_result (r : StartResult) (b : Block) : (setResult r b).result = r := rfl

@[simp] theorem setResult_frame (r : StartResult) (b : Block) : (setResult r b).frame = b.frame := rfl

@[simp] theorem setResult_bitCur (r : StartResult) (b : Block) : (setResult r b).bitCur = b.bitCur := rfl

@[simp] theorem setResult_byteCur (r : StartResult) (b : Block) : (setResult r b).byteCur = b.byteCur := rfl

@[simp] theorem setResult_armed (r : StartResult) (b : Block) : (setResult r b).armed = b.armed := rfl

@[simp] theorem setResult_driveLow (r : StartResult) (b : Block) : (setResult r b).driveLow = b.driveLow := rfl

@[simp] theorem setResult_convPending (r : StartResult) (b : Block) : (setResult r b).convPending = b.convPending := rfl

@[simp] theorem setResult_firstDone (r : StartResult) (b : Block) : (setResult r b).firstDone = b.firstDone := rfl

@[simp] theorem setResult_lastEdge (r : StartResult) (b : Block) : (setResult r b).lastEdge = b.lastEdge := rfl

@[simp] theorem setResult_holdStart (r : StartResult) (b : Block) : (setResult r b).holdStart = b.holdStart := rfl

@[simp] theorem setResult_lastAcq (r : StartResult) (b : Block) : (setResult r b).lastAcq = b.lastAcq := rfl

@[simp] theorem trigger_state (us ms : U32) (b : Block) : (trigger us ms b).state = .awaitingResponse := rfl

@[simp] theorem trigger_status (us ms : U32) (b : Block) : (trigger us ms b).status = b.status := rfl

@[simp] theorem trigger_result (us ms : U32) (b : Block) : (trigger us ms b).result = .acquiring := rfl

@[simp] theorem trigger_frame (us ms : U32) (b : Block) : (trigger us ms b).frame = Frame.zero := rfl

@[simp] theorem trigger_bitCur (us ms : U32) (b : Block) : (trigger us ms b).bitCur = 0 := rfl

@[simp] theorem trigger_byteCur (us ms : U32) (b : Block) : (trigger us ms b).byteCur = 0 := rfl

@[simp] theorem trigger_armed (us ms : U32) (b : Block) : (trigger us ms b).armed = b.armed := rfl

@[simp] theorem trigger_driveLow (us ms : U32) (b : Block) : (trigger us ms b).driveLow = true := rfl

@[simp] theorem trigger_convPending (us ms : U32) (b : Block) : (trigger us ms b).convPending = b.convPending := rfl

@[simp] theorem trigger_firstDone (us ms : U32) (b : Block) : (trigger us ms b).firstDone = true := rfl

@[simp] theorem trigger_lastEdge (us ms : U32) (b : Block) : (trigger us ms b).lastEdge = b.lastEdge := rfl

@[simp] theorem trigger_holdStart (us ms : U32) (b : Block) : (trigger us ms b).holdStart = us := rfl

@[simp] theorem trigger_lastAcq (us ms : U32) (b : Block) : (trigger us ms b).lastAcq = ms := rfl

@[simp] theorem releaseLine_state (us : U32) (b : Block) : (releaseLine us b).state = b.state := rfl

@[simp] theorem releaseLine_status (us : U32) (b : Block) : (releaseLine us b).status = b.status := rfl

@[simp] theorem releaseLine_result (us : U32) (b : Block) : (releaseLine us b).result = b.result := rfl

@[simp] theorem releaseLine_frame (us : U32) (b : Block) : (releaseLine us b).frame = b.frame := rfl

@[simp] theorem releaseLine_bitCur (us : U32) (b : Block) : (releaseLine us b).bitCur = b.bitCur := rfl

@[simp] theorem releaseLine_byteCur (us : U32) (b : Block) : (releaseLine us b).byteCur = b.byteCur := rfl

@[simp] theorem releaseLine_armed (us : U32) (b : Block) : (releaseLine us b).armed = true := rfl

@[simp] theorem releaseLine_driveLow (us : U32) (b : Block) : (releaseLine us b).driveLow = false := rfl

@[simp] theorem releaseLine_convPending (us : U32) (b : Block) : (releaseLine us b).convPending = b.convPending := rfl

@[simp] theorem releaseLine_firstDone (us : U32) (b : Block) : (releaseLine us b).firstDone = b.firstDone := rfl

@[simp] theorem releaseLine_lastEdge (us : U32) (b : Block) : (releaseLine us b).lastEdge = us := rfl

@[simp] theorem releaseLine_holdStart (us : U32) (b : Block) : (releaseLine us b).holdStart = b.holdStart := rfl

@[simp] theorem releaseLine_lastAcq (us : U32) (b : Block) : (releaseLine us b).lastAcq = b.lastAcq := rfl

@[simp] theorem ackConversion_state (b : Block) : (ackConversion b).state = b.state := rfl

@[simp] theorem ackConversion_status (b : Block) : (ackConversion b).status = b.status := rfl

@[simp] theorem ackConversion_result (b : Block) : (ackConversion b).result = b.result := rfl

@[simp] theorem ackConversion_frame (b : Block) : (ackConversion b).frame = b.frame := rfl

@[simp] theorem ackConversion_bitCur (b : Block) : (ackConversion b).bitCur = b.bitCur := rfl

@[simp] theorem ackConversion_byteCur (b : Block) : (ackConversion b).byteCur = b.byteCur := rfl

@[simp] theorem ackConversion_armed (b : Block) : (ackConversion b).armed = b.armed := rfl

@[simp] theorem ackConversion_driveLow (b : Block) : (ackConversion b).driveLow = b.driveLow := rfl

@[simp] theorem ackConversion_convPending (b : Block) : (ackConversion b).convPending = false := rfl

@[simp] theorem ackConversion_firstDone (b : Block) : (ackConversion b).firstDone = b.firstDone := rfl

@[simp] theorem ackConversion_lastEdge (b : Block) : (ackConversion b).lastEdge = b.lastEdge := rfl

@[simp] theorem ackConversion_holdStart (b : Block) : (ackConversion b).holdStart = b.holdStart := rfl

@[simp] theorem ackConversion_lastAcq (b : Block) : (ackConversion b).lastAcq = b.lastAcq := rfl

@[simp] theorem setLastEdge_state (us : U32) (b : Block) : (setLastEdge us b).state = b.state := rfl

@[simp] theorem setLastEdge_status (us : U32) (b : Block) : (setLastEdge us b).status = b.status := rfl

@[simp] theorem setLastEdge_result (us : U32) (b : Block) : (setLastEdge us b).result = b.result := rfl

@[simp] theorem setLastEdge_frame (us : U32) (b : Block) : (setLastEdge us b).frame = b.frame := rfl

@[simp] theorem setLastEdge_bitCur (us : U32) (b : Block) : (setLastEdge us b).bitCur = b.bitCur := rfl

@[simp] theorem setLastEdge_byteCur (us : U32) (b : Block) : (setLastEdge us b).byteCur = b.byteCur := rfl

@[simp] theorem setLastEdge_armed (us : U32) (b : Block) : (setLastEdge us b).armed = b.armed := rfl

@[simp] theorem setLastEdge_driveLow (us : U32) (b : Block) : (setLastEdge us b).driveLow = b.driveLow := rfl

@[simp] theorem setLastEdge_convPending (us : U32) (b : Block) : (setLastEdge us b).convPending = b.convPending := rfl

@[simp] theorem setLastEdge_firstDone (us : U32) (b : Block) : (setLastEdge us b).firstDone = b.firstDone := rfl

@[simp] theorem setLastEdge_lastEdge (us : U32) (b : Block) : (setLastEdge us b).lastEdge = us := rfl

@[simp] theorem setLastEdge_holdStart (us : U32) (b : Block) : (setLastEdge us b).holdStart = b.holdStart := rfl

@[simp] theorem setLastEdge_lastAcq (us : U32) (b : Block) : (setLastEdge us b).lastAcq = b.lastAcq := rfl

@[simp] theorem beginData_state (b : Block) : (beginData b).state = .receivingData := rfl

@[simp] theorem beginData_status (b : Block) : (beginData b).status = b.status := rfl

@[simp] theorem beginData_result (b : Block) : (beginData b).result = b.result := rfl

@[simp] theorem beginData_frame (b : Block) : (beginData b).frame = b.frame := rfl

@[simp] theorem beginData_bitCur (b : Block) : (beginData b).bitCur = b.bitCur := rfl

@[simp] theorem beginData_byteCur (b : Block) : (beginData b).byteCur = b.byteCur := rfl

@[simp] theorem beginData_armed (b : Block) : (beginData b).armed = b.armed := rfl

@[simp] theorem beginData_driveLow (b : Block) : (beginData b).driveLow = b.driveLow := rfl

@[simp] theorem beginData_convPending (b : Block) : (beginData b).convPending = b.convPending := rfl

@[simp] theorem beginData_firstDone (b : Block) : (beginData b).firstDone = b.firstDone := rfl

@[simp] theorem beginData_lastEdge (b : Block) : (beginData b).lastEdge = b.lastEdge := rfl

@[simp] theorem beginData_holdStart (b : Block) : (beginData b).holdStart = b.holdStart := rfl

@[simp] theorem beginData_lastAcq (b : Block) : (beginData b).lastAcq = b.lastAcq := rfl

@[simp] theorem Block.reset_state : Block.reset.state = .stopped := rfl

@[simp] theorem Block.reset_status : Block.reset.status = .notStarted := rfl

@[simp] theorem Block.reset_result : Block.reset.result = .noStart := rfl

@[simp] theorem Block.reset_frame : Block.reset.frame = Frame.zero := rfl

@[simp] theorem Block.reset_bitCur : Block.reset.bitCur = 0 := rfl

@[simp] theorem Block.reset_byteCur : Block.reset.byteCur = 0 := rfl

@[simp] theorem Block.reset_armed : Block.reset.armed = false := rfl

@[simp] theorem Block.reset_driveLow : Block.reset.driveLow = false := rfl

@[simp] theorem Block.reset_convPending : Block.reset.convPending = false := rfl

@[simp] theorem Block.reset_firstDone : Block.reset.firstDone = false := rfl

@[simp] theorem Block.reset_lastEdge : Block.reset.lastEdge = 0 := rfl

@[simp] theorem Block.reset_holdStart : Block.reset.holdStart = 0 := rfl

@[simp] theorem Block.reset_lastAcq : Block.reset.lastAcq = 0 := rfl

/-- `busy` looks at the state alone (R34). -/
theorem busy_eq_true_iff (b : Block) :
    busy b = true ↔ b.state = .awaitingResponse ∨ b.state = .receivingData := by
  unfold busy; cases b.state <;> simp

theorem busy_eq_false_iff (b : Block) : busy b = false ↔ b.state = .stopped ∨ b.state = .acquired := by
  unfold busy; cases b.state <;> simp

theorem busy_congr (b c : Block) (h : b.state = c.state) : busy b = busy c := by
  unfold busy; rw [h]

end Sys2Proof.Machine
end

