-- ==== Sys2Proof/Laws/State.lean ====
section
/-! SUPPORT. One lemma for each field under each named update of State and of Block: what the field holds after it. -/

namespace Sys2Proof.Machine

@[simp] theorem State.withBlk_blk (s : State) (b : Block) :
    (s.withBlk b).blk = b := rfl

@[simp] theorem State.withBlk_cfg (s : State) (b : Block) :
    (s.withBlk b).cfg = s.cfg := rfl

@[simp] theorem State.withBlk_tsUs (s : State) (b : Block) :
    (s.withBlk b).tsUs = s.tsUs := rfl

@[simp] theorem State.withBlk_tsMs (s : State) (b : Block) :
    (s.withBlk b).tsMs = s.tsMs := rfl

@[simp] theorem State.withBlk_rst (s : State) (b : Block) :
    (s.withBlk b).rst = s.rst := rfl

@[simp] theorem State.withBlk_sigIn (s : State) (b : Block) :
    (s.withBlk b).sigIn = s.sigIn := rfl

@[simp] theorem State.withBlk_busRdata (s : State) (b : Block) :
    (s.withBlk b).busRdata = s.busRdata := rfl

@[simp] theorem State.withBlk_pending (s : State) (b : Block) :
    (s.withBlk b).pending = s.pending := rfl

@[simp] theorem State.withTime_blk (s : State) (us ms : U32) :
    (s.withTime us ms).blk = s.blk := rfl

@[simp] theorem State.withTime_cfg (s : State) (us ms : U32) :
    (s.withTime us ms).cfg = s.cfg := rfl

@[simp] theorem State.withTime_tsUs (s : State) (us ms : U32) :
    (s.withTime us ms).tsUs = us := rfl

@[simp] theorem State.withTime_tsMs (s : State) (us ms : U32) :
    (s.withTime us ms).tsMs = ms := rfl

@[simp] theorem State.withTime_rst (s : State) (us ms : U32) :
    (s.withTime us ms).rst = s.rst := rfl

@[simp] theorem State.withTime_sigIn (s : State) (us ms : U32) :
    (s.withTime us ms).sigIn = s.sigIn := rfl

@[simp] theorem State.withTime_busRdata (s : State) (us ms : U32) :
    (s.withTime us ms).busRdata = s.busRdata := rfl

@[simp] theorem State.withTime_pending (s : State) (us ms : U32) :
    (s.withTime us ms).pending = s.pending := rfl

@[simp] theorem State.withRdata_blk (s : State) (v : Byte) :
    (s.withRdata v).blk = s.blk := rfl

@[simp] theorem State.withRdata_cfg (s : State) (v : Byte) :
    (s.withRdata v).cfg = s.cfg := rfl

@[simp] theorem State.withRdata_tsUs (s : State) (v : Byte) :
    (s.withRdata v).tsUs = s.tsUs := rfl

@[simp] theorem State.withRdata_tsMs (s : State) (v : Byte) :
    (s.withRdata v).tsMs = s.tsMs := rfl

@[simp] theorem State.withRdata_rst (s : State) (v : Byte) :
    (s.withRdata v).rst = s.rst := rfl

@[simp] theorem State.withRdata_sigIn (s : State) (v : Byte) :
    (s.withRdata v).sigIn = s.sigIn := rfl

@[simp] theorem State.withRdata_busRdata (s : State) (v : Byte) :
    (s.withRdata v).busRdata = v := rfl

@[simp] theorem State.withRdata_pending (s : State) (v : Byte) :
    (s.withRdata v).pending = s.pending := rfl

@[simp] theorem State.withSigIn_blk (s : State) (level : Bool) :
    (s.withSigIn level).blk = s.blk := rfl

@[simp] theorem State.withSigIn_cfg (s : State) (level : Bool) :
    (s.withSigIn level).cfg = s.cfg := rfl

@[simp] theorem State.withSigIn_tsUs (s : State) (level : Bool) :
    (s.withSigIn level).tsUs = s.tsUs := rfl

@[simp] theorem State.withSigIn_tsMs (s : State) (level : Bool) :
    (s.withSigIn level).tsMs = s.tsMs := rfl

@[simp] theorem State.withSigIn_rst (s : State) (level : Bool) :
    (s.withSigIn level).rst = s.rst := rfl

@[simp] theorem State.withSigIn_sigIn (s : State) (level : Bool) :
    (s.withSigIn level).sigIn = level := rfl

@[simp] theorem State.withSigIn_busRdata (s : State) (level : Bool) :
    (s.withSigIn level).busRdata = s.busRdata := rfl

@[simp] theorem State.withSigIn_pending (s : State) (level : Bool) :
    (s.withSigIn level).pending = s.pending := rfl

@[simp] theorem State.withPending_blk (s : State) (q : List Input) :
    (s.withPending q).blk = s.blk := rfl

@[simp] theorem State.withPending_cfg (s : State) (q : List Input) :
    (s.withPending q).cfg = s.cfg := rfl

@[simp] theorem State.withPending_tsUs (s : State) (q : List Input) :
    (s.withPending q).tsUs = s.tsUs := rfl

@[simp] theorem State.withPending_tsMs (s : State) (q : List Input) :
    (s.withPending q).tsMs = s.tsMs := rfl

@[simp] theorem State.withPending_rst (s : State) (q : List Input) :
    (s.withPending q).rst = s.rst := rfl

@[simp] theorem State.withPending_sigIn (s : State) (q : List Input) :
    (s.withPending q).sigIn = s.sigIn := rfl

@[simp] theorem State.withPending_busRdata (s : State) (q : List Input) :
    (s.withPending q).busRdata = s.busRdata := rfl

@[simp] theorem State.withPending_pending (s : State) (q : List Input) :
    (s.withPending q).pending = q := rfl

@[simp] theorem State.withRst_blk (s : State) (level : Bool) :
    (s.withRst level).blk = if level || s.rst then Block.reset else s.blk := rfl

@[simp] theorem State.withRst_cfg (s : State) (level : Bool) :
    (s.withRst level).cfg = s.cfg := rfl

@[simp] theorem State.withRst_tsUs (s : State) (level : Bool) :
    (s.withRst level).tsUs = s.tsUs := rfl

@[simp] theorem State.withRst_tsMs (s : State) (level : Bool) :
    (s.withRst level).tsMs = s.tsMs := rfl

@[simp] theorem State.withRst_rst (s : State) (level : Bool) :
    (s.withRst level).rst = level := rfl

@[simp] theorem State.withRst_sigIn (s : State) (level : Bool) :
    (s.withRst level).sigIn = s.sigIn := rfl

@[simp] theorem State.withRst_busRdata (s : State) (level : Bool) :
    (s.withRst level).busRdata = s.busRdata := rfl

@[simp] theorem State.withRst_pending (s : State) (level : Bool) :
    (s.withRst level).pending = s.pending := rfl

@[simp] theorem State.withNextInput_blk (s : State) (inp : Input) :
    (s.withNextInput inp).blk = s.blk := rfl

@[simp] theorem State.withNextInput_cfg (s : State) (inp : Input) :
    (s.withNextInput inp).cfg = s.cfg := rfl

@[simp] theorem State.withNextInput_tsUs (s : State) (inp : Input) :
    (s.withNextInput inp).tsUs = s.tsUs := rfl

@[simp] theorem State.withNextInput_tsMs (s : State) (inp : Input) :
    (s.withNextInput inp).tsMs = s.tsMs := rfl

@[simp] theorem State.withNextInput_rst (s : State) (inp : Input) :
    (s.withNextInput inp).rst = false := rfl

@[simp] theorem State.withNextInput_sigIn (s : State) (inp : Input) :
    (s.withNextInput inp).sigIn = s.sigIn := rfl

@[simp] theorem State.withNextInput_busRdata (s : State) (inp : Input) :
    (s.withNextInput inp).busRdata = s.busRdata := rfl

@[simp] theorem State.withNextInput_pending (s : State) (inp : Input) :
    (s.withNextInput inp).pending = inp :: s.pending := rfl

@[simp] theorem State.sigDriveLow_eq (s : State) : s.sigDriveLow = s.blk.driveLow := rfl

@[simp] theorem State.busyPort_eq (s : State) : s.busyPort = busy s.blk := rfl

@[simp] theorem State.resetWith_blk (p : Params) : (State.resetWith p).blk = Block.reset := rfl

@[simp] theorem State.resetWith_cfg (p : Params) : (State.resetWith p).cfg = p := rfl

@[simp] theorem State.resetWith_rst (p : Params) : (State.resetWith p).rst = false := rfl

@[simp] theorem State.resetWith_pending (p : Params) : (State.resetWith p).pending = [] := rfl

end Sys2Proof.Machine
end

