-- ==== Sys2Proof/Laws/Ops.lean ====
section
/-! SUPPORT. What each shared operation can do, said once: the frame's update, the classifier's classes, bit assembly,
and inversion lemmas for the operations, the inputs and the step ("if it answers next t, then …"). -/

namespace Sys2Proof.Machine

/-! ### The frame and bit assembly -/

/-- A frame has a byte `i` exactly for `i` below 5 (R11). -/
theorem Frame.modify_eq_none_iff (f : Frame) (i : BitVec 3) (g : Byte → Byte) :
    f.modify i g = none ↔ 5#3 ≤ i := by
  have h : ∀ i : BitVec 3, i = 0 ∨ i = 1 ∨ i = 2 ∨ i = 3 ∨ i = 4 ∨ i = 5 ∨ i = 6 ∨ i = 7 := by decide
  rcases h i with h | h | h | h | h | h | h | h <;> subst h <;> simp [Frame.modify]

/-- What a changed frame is, byte by byte. -/
theorem Frame.modify_eq_some (f f' : Frame) (i : BitVec 3) (g : Byte → Byte) (h : f.modify i g = some f') :
    f' = { b0 := if i = 0 then g f.b0 else f.b0
           b1 := if i = 1 then g f.b1 else f.b1
           b2 := if i = 2 then g f.b2 else f.b2
           b3 := if i = 3 then g f.b3 else f.b3
           b4 := if i = 4 then g f.b4 else f.b4 } := by
  have hi : ∀ i : BitVec 3, i = 0 ∨ i = 1 ∨ i = 2 ∨ i = 3 ∨ i = 4 ∨ i = 5 ∨ i = 6 ∨ i = 7 := by decide
  rcases hi i with hi | hi | hi | hi | hi | hi | hi | hi <;> subst hi <;>
    simp [Frame.modify] at h <;> simp [← h]

/-- The checksum test, as the sum it makes (R163). -/
theorem Frame.checksumOk_iff (f : Frame) : f.checksumOk = true ↔ f.b4 = f.b0 + f.b1 + f.b2 + f.b3 := by
  rw [Frame.checksumOk, decide_eq_true_iff, Frame.sum]

/-- A byte shift, with the bit a test decides (R139, R160). -/
theorem shiftBit_decide (p : Prop) [Decidable p] (x : Byte) :
    shiftBit (decide p) x = (x <<< 1) ||| (if p then 1#8 else 0#8) := by
  by_cases h : p <;> simp [shiftBit, h]

/-- A byte shift as arithmetic: `(2x + bit) mod 256` (R160). -/
theorem shiftBit_toNat (bit : Bool) (x : Byte) :
    (shiftBit bit x).toNat = (2 * x.toNat + bit.toNat) % 256 := by
  have h : ∀ (bit : Bool) (x : Byte), (shiftBit bit x).toNat = (2 * x.toNat + bit.toNat) % 256 := by decide
  exact h bit x

/-- Bit assembly gives a block exactly when the cursor points into the frame. -/
theorem shiftIn_eq_some_iff (bit : Bool) (b c : Block) :
    shiftIn bit b = some c ↔
      ∃ f, b.frame.modify b.byteCur (shiftBit bit) = some f ∧ c = advanceCursor { b with frame := f } := by
  unfold shiftIn
  split <;> rename_i h <;> simp [h, eq_comm]

theorem shiftIn_eq_none_iff (bit : Bool) (b : Block) : shiftIn bit b = none ↔ 5#3 ≤ b.byteCur := by
  rw [← Frame.modify_eq_none_iff b.frame b.byteCur (shiftBit bit)]
  unfold shiftIn
  split <;> rename_i h <;> simp [h]

/-- The three ways the cursors move (R161). -/
theorem advanceCursor_cases (b : Block) :
    (b.bitCur < 7#3 ∧ advanceCursor b = { b with bitCur := b.bitCur + 1 }) ∨
    (¬ b.bitCur < 7#3 ∧ b.byteCur + 1 ≠ 5#3 ∧
      advanceCursor b = { b with bitCur := 0, byteCur := b.byteCur + 1 }) ∨
    (¬ b.bitCur < 7#3 ∧ b.byteCur + 1 = 5#3 ∧
      advanceCursor b = completeFrame { b with bitCur := 0, byteCur := b.byteCur + 1 }) := by
  unfold advanceCursor
  split
  · exact .inl ⟨‹_›, rfl⟩
  · split
    · exact .inr (.inr ⟨‹_›, ‹_›, rfl⟩)
    · exact .inr (.inl ⟨‹_›, ‹_›, rfl⟩)

/-- The two ways a frame is completed (R164, R165). -/
theorem completeFrame_cases (b : Block) :
    (b.frame.b4 = b.frame.sum ∧
      completeFrame b = { b with armed := false, status := .ok, state := .acquired, convPending := true }) ∨
    (b.frame.b4 ≠ b.frame.sum ∧
      completeFrame b = { b with armed := false, status := .checksumError, state := .stopped }) := by
  unfold completeFrame Frame.checksumOk
  by_cases h : b.frame.b4 = b.frame.sum
  · exact .inl ⟨h, by simp [h]⟩
  · exact .inr ⟨h, by simp [h]⟩

/-! ### The classifier -/

/-- Everything the class of an armed EDGE can be, with the tests that led to it (R130, R144). -/
theorem classify_cases (p : Params) (st : AcqState) (d : U32) :
    (p.tStall < d ∧ classify p st d = .stall) ∨
    (¬ p.tStall < d ∧ st = .awaitingResponse ∧ d < p.tJitter ∧ classify p st d = .jitter) ∨
    (¬ p.tStall < d ∧ st = .awaitingResponse ∧ ¬ d < p.tJitter ∧ (p.tRespLo < d ∧ d < p.tRespHi) ∧
      classify p st d = .response) ∨
    (¬ p.tStall < d ∧ st = .awaitingResponse ∧ ¬ d < p.tJitter ∧ ¬ (p.tRespLo < d ∧ d < p.tRespHi) ∧
      classify p st d = .responseTimeout) ∨
    (¬ p.tStall < d ∧ st = .receivingData ∧ (p.tBitLo < d ∧ d < p.tBitHi) ∧
      classify p st d = .dataBit (decide (p.tOne ≤ d))) ∨
    (¬ p.tStall < d ∧ st = .receivingData ∧ ¬ (p.tBitLo < d ∧ d < p.tBitHi) ∧ d < p.tGlitch ∧
      classify p st d = .glitch) ∨
    (¬ p.tStall < d ∧ st = .receivingData ∧ ¬ (p.tBitLo < d ∧ d < p.tBitHi) ∧ ¬ d < p.tGlitch ∧
      classify p st d = .dataTimeout) ∨
    (¬ p.tStall < d ∧ (st = .acquired ∨ st = .stopped) ∧ classify p st d = .terminal) := by
  by_cases h1 : p.tStall < d
  · exact .inl ⟨h1, by unfold classify; rw [if_pos h1]⟩
  refine .inr ?_
  cases st
  · exact .inr (.inr (.inr (.inr (.inr (.inr ⟨h1, .inr rfl, by unfold classify; rw [if_neg h1]⟩)))))
  · by_cases h2 : d < p.tJitter
    · exact .inl ⟨h1, rfl, h2, by unfold classify classifyAwaiting; rw [if_neg h1, if_pos h2]⟩
    by_cases h3 : p.tRespLo < d ∧ d < p.tRespHi
    · exact .inr (.inl ⟨h1, rfl, h2, h3, by unfold classify classifyAwaiting; rw [if_neg h1, if_neg h2, if_pos h3]⟩)
    · exact .inr (.inr (.inl
        ⟨h1, rfl, h2, h3, by unfold classify classifyAwaiting; rw [if_neg h1, if_neg h2, if_neg h3]⟩))
  · by_cases h2 : p.tBitLo < d ∧ d < p.tBitHi
    · exact .inr (.inr (.inr (.inl ⟨h1, rfl, h2, by unfold classify classifyData; rw [if_neg h1, if_pos h2]⟩)))
    by_cases h3 : d < p.tGlitch
    · exact .inr (.inr (.inr (.inr (.inl
        ⟨h1, rfl, h2, h3, by unfold classify classifyData; rw [if_neg h1, if_neg h2, if_pos h3]⟩))))
    · exact .inr (.inr (.inr (.inr (.inr (.inl
        ⟨h1, rfl, h2, h3, by unfold classify classifyData; rw [if_neg h1, if_neg h2, if_neg h3]⟩)))))
  · exact .inr (.inr (.inr (.inr (.inr (.inr ⟨h1, .inl rfl, by unfold classify; rw [if_neg h1]⟩)))))

/-! ### The operations -/

/-- Everything an EDGE can do when it answers a next state. -/
theorem execEdge_cases {s t : State} (h : execEdge s = .next t) :
    (s.blk.armed = false ∧ t = s) ∨
    (∃ b, s.blk.armed = true ∧ applyClass s.edgeClass s.tsUs s.blk = some b ∧ t = s.withBlk b) := by
  unfold execEdge at h
  by_cases ha : s.blk.armed = true
  · rw [if_pos ha] at h
    split at h
    · rename_i b hb
      exact .inr ⟨b, ha, hb, by cases h; rfl⟩
    · cases h
  · rw [if_neg ha] at h
    exact .inl ⟨by simpa using ha, by cases h; rfl⟩

/-- An armed EDGE whose class has an effect answers it. -/
theorem execEdge_of_applyClass {s : State} {b : Block} (ha : s.blk.armed = true)
    (hb : applyClass s.edgeClass s.tsUs s.blk = some b) : execEdge s = .next (s.withBlk b) := by
  unfold execEdge
  rw [if_pos ha]
  simp [hb]

/-- A class has no effect to give only where a data bit meets a cursor past the frame. -/
theorem applyClass_eq_none_iff (c : EdgeClass) (us : U32) (b : Block) :
    applyClass c us b = none ↔ (∃ one, c = .dataBit one) ∧ 5#3 ≤ b.byteCur := by
  cases c <;> simp [applyClass, shiftIn_eq_none_iff]

/-- The three outcomes of START (R101). -/
theorem startBlock_cases (p : Params) (us ms : U32) (b : Block) :
    (throttled p ms b = true ∧ startBlock p us ms b = setResult .usedCachedReading b) ∨
    (throttled p ms b = false ∧ busy b = true ∧ startBlock p us ms b = setResult .alreadyAcquiring b) ∨
    (throttled p ms b = false ∧ busy b = false ∧ startBlock p us ms b = trigger us ms b) := by
  unfold startBlock
  cases throttled p ms b <;> cases busy b <;> simp

theorem throttled_iff (p : Params) (ms : U32) (b : Block) :
    throttled p ms b = true ↔ b.firstDone = true ∧ ms - b.lastAcq < p.throttleMs := by
  rw [throttled, Bool.and_eq_true, decide_eq_true_iff]

theorem releaseEnabled_iff (p : Params) (us : U32) (b : Block) :
    releaseEnabled p us b = true ↔ b.driveLow = true ∧ p.holdUs ≤ us - b.holdStart := by
  rw [releaseEnabled, Bool.and_eq_true, holdOver, decide_eq_true_iff]

/-- The time at which the idle machine's hold timer acts meets the hold (R106). -/
theorem holdOver_releaseDue (p : Params) (us : U32) (b : Block) : holdOver p (releaseDue p us b) b = true := by
  unfold releaseDue
  by_cases h : holdOver p us b = true
  · simp [h]
  · rw [if_neg h]
    rw [holdOver, decide_eq_true_iff, elapsed, BitVec.add_comm, BitVec.add_sub_cancel]
    exact BitVec.le_refl _

/-- What each operation but RD leaves in the record `s`. -/
def Effect (s : State) (b : Block) : Instr → Prop
  | .nop => b = s.blk
  | .cmdRsvd _ => b = s.blk
  | .wrNoCmd _ _ => b = s.blk
  | .rd _ => False
  | .start => b = startBlock s.cfg s.tsUs s.tsMs s.blk
  | .convAck => b = ackConversion s.blk
  | .srst => b = Block.reset
  | .release => b = if releaseEnabled s.cfg s.tsUs s.blk then releaseLine s.tsUs s.blk else s.blk
  | .edge => s.blk.armed = false ∧ b = s.blk ∨
      s.blk.armed = true ∧ applyClass s.edgeClass s.tsUs s.blk = some b

/-- Everything an operation can do when it answers a next state: RD writes `busRdata`, and every other operation
replaces the record `s` at most. -/
theorem exec_cases {i : Instr} {s t : State} (h : exec i s = .next t) :
    (∃ a, i = .rd a ∧ t = s.withRdata (regRead a s.blk)) ∨ (∃ b, t = s.withBlk b ∧ Effect s b i) := by
  cases i with
  | nop => cases h; exact .inr ⟨_, rfl, rfl⟩
  | start => cases h; exact .inr ⟨_, rfl, rfl⟩
  | convAck => cases h; exact .inr ⟨_, rfl, rfl⟩
  | srst => cases h; exact .inr ⟨_, rfl, rfl⟩
  | cmdRsvd d => cases h; exact .inr ⟨_, rfl, rfl⟩
  | wrNoCmd a d => cases h; exact .inr ⟨_, rfl, rfl⟩
  | rd a => cases h; exact .inl ⟨a, rfl, rfl⟩
  | edge =>
    refine .inr ?_
    rcases execEdge_cases h with ⟨ha, rfl⟩ | ⟨b, ha, hb, rfl⟩
    · exact ⟨_, rfl, .inl ⟨ha, rfl⟩⟩
    · exact ⟨b, rfl, .inr ⟨ha, hb⟩⟩
  | release =>
    refine .inr ?_
    simp only [exec, execRelease] at h
    by_cases he : releaseEnabled s.cfg s.tsUs s.blk = true
    · rw [if_pos he] at h; cases h
      exact ⟨_, rfl, by simp [Effect, he]⟩
    · rw [if_neg he] at h; cases h
      exact ⟨_, rfl, by simp [Effect, he]⟩

/-! ### Inputs and the step -/

theorem step_eq (s : State) : step s = stepInput s := rfl

theorem stepInput_nil {s : State} (h : s.pending = []) : stepInput s = idle s := by
  unfold stepInput; rw [h]

theorem stepInput_cons {s : State} {inp : Input} {rest : List Input} (h : s.pending = inp :: rest) :
    stepInput s = accept inp.stim ((s.withPending rest).withTime inp.nowUs inp.nowMs) := by
  unfold stepInput; rw [h]

theorem perform_of_running (i : Instr) {s : State} (h : s.rst = false) : perform i s = exec i s := by
  unfold perform; rw [h]; rfl

theorem perform_in_reset (i : Instr) {s : State} (h : s.rst = true) : perform i s = .next (heldInReset i s) := by
  unfold perform; rw [h]; rfl

/-- Under `rst` the record `s` is at reset whatever the operation (R232). -/
@[simp] theorem heldInReset_blk (i : Instr) (s : State) : (heldInReset i s).blk = Block.reset := by
  unfold heldInReset; cases readAddr i <;> rfl

@[simp] theorem heldInReset_rst (i : Instr) (s : State) : (heldInReset i s).rst = s.rst := by
  unfold heldInReset; cases readAddr i <;> rfl

@[simp] theorem heldInReset_pending (i : Instr) (s : State) : (heldInReset i s).pending = s.pending := by
  unfold heldInReset; cases readAddr i <;> rfl

@[simp] theorem heldInReset_cfg (i : Instr) (s : State) : (heldInReset i s).cfg = s.cfg := by
  unfold heldInReset; cases readAddr i <;> rfl

/-- Everything a stimulus can do when it answers a next state. -/
theorem accept_cases {st : Stimulus} {s t : State} (h : accept st s = .next t) :
    (∃ i, st.instr = some i ∧ perform i s = .next t) ∨
    (st = .sigLevel false ∧ s.sigIn = true ∧ perform .edge (s.withSigIn false) = .next t) ∨
    (∃ level, st = .sigLevel level ∧ ¬(s.sigIn = true ∧ level = false) ∧ t = s.withSigIn level) ∨
    (∃ level, st = .rstLevel level ∧ t = s.withRst level) := by
  cases st with
  | opw w =>
    simp only [accept] at h
    split at h
    · rename_i i hi
      exact .inl ⟨i, by simp [Stimulus.instr, hi], h⟩
    · cases h
  | busWrite a d => exact .inl ⟨_, rfl, h⟩
  | busRead a => exact .inl ⟨_, rfl, h⟩
  | sigLevel level =>
    simp only [accept] at h
    cases hs : s.sigIn <;> cases level <;> simp [hs] at h
    · exact .inr (.inr (.inl ⟨_, rfl, by simp, h.symm⟩))
    · exact .inr (.inr (.inl ⟨_, rfl, by simp, h.symm⟩))
    · exact .inr (.inl ⟨rfl, rfl, h⟩)
    · exact .inr (.inr (.inl ⟨_, rfl, by simp, h.symm⟩))
  | rstLevel level => cases h; exact .inr (.inr (.inr ⟨level, rfl, rfl⟩))

/-- Everything the idle machine can do. -/
theorem idle_cases {s t : State} (h : idle s = .next t) :
    (s.rst = true ∧ t = s.withBlk Block.reset) ∨
    (s.rst = false ∧ s.blk.driveLow = false ∧ t = s) ∨
    (s.rst = false ∧ s.blk.driveLow = true ∧
      exec .release (s.withTime (releaseDue s.cfg s.tsUs s.blk) s.tsMs) = .next t) := by
  unfold idle at h
  cases hr : s.rst <;> cases hd : s.blk.driveLow <;> simp [hr, hd] at h
  · exact .inr (.inl ⟨rfl, rfl, h.symm⟩)
  · exact .inr (.inr ⟨rfl, rfl, h⟩)
  · exact .inl ⟨rfl, h.symm⟩
  · exact .inl ⟨rfl, h.symm⟩

/-- Everything a step can do when it answers a next state: the idle machine's, or the next input's. -/
theorem step_cases {s t : State} (h : step s = .next t) :
    (s.pending = [] ∧ idle s = .next t) ∨
    (∃ inp rest, s.pending = inp :: rest ∧
      accept inp.stim ((s.withPending rest).withTime inp.nowUs inp.nowMs) = .next t) := by
  rw [step_eq] at h
  cases hp : s.pending with
  | nil => exact .inl ⟨rfl, by rwa [stepInput_nil hp] at h⟩
  | cons inp rest => exact .inr ⟨inp, rest, rfl, by rwa [stepInput_cons hp] at h⟩

@[simp] theorem run_zero (s : State) : run 0 s = .next s := rfl

/-- A run of one more step. -/
theorem run_succ (n : Nat) (s t : State) :
    run (n + 1) s = .next t ↔ ∃ u, step s = .next u ∧ run n u = .next t := by
  simp only [run]
  cases step s with
  | next u => simp
  | fault r => simp
  | refused r => simp

/-- What every step keeps, every run keeps. -/
theorem run_keeps {P : State → Prop} (hstep : ∀ s t, P s → step s = .next t → P t) :
    ∀ {n : Nat} {s t : State}, P s → run n s = .next t → P t
  | 0, _, _, hs, h => by cases h; exact hs
  | n + 1, s, t, hs, h => by
    obtain ⟨u, hu, hr⟩ := (run_succ n s t).1 h
    exact run_keeps hstep (hstep s u hs hu) hr

/-- A run of one more step, for any machine behind the host's interface. -/
theorem core_run_succ (M : Host.Core) (n : Nat) (s : M.State) :
    M.run (n + 1) s = match M.step s with
      | .next t => M.run n t
      | .fault r => .fault r
      | .refused r => .refused r := rfl

/-- The model's runs are the host interface's. -/
theorem run_eq_core (n : Nat) (s : State) : run n s = Host.Core.run Sys2Proof.core n s := by
  induction n generalizing s with
  | zero => rfl
  | succ n ih =>
    have g := core_run_succ Sys2Proof.core n s
    have hs : Sys2Proof.core.step s = step s := rfl
    rw [hs] at g
    rw [run]
    cases h : step s with
    | next u => rw [h] at g; exact (ih u).trans g.symm
    | fault r => rw [h] at g; exact g.symm
    | refused r => rw [h] at g; exact g.symm

end Sys2Proof.Machine
end

