-- ==== Sys2Proof/Laws/Consumer.lean ====
section
/-! SUPPORT. What a host operation in a sequence can do, said once: a read answers the register and leaves the record as
it is, at once and after any number of steps, and the loop of ACQUIRE_WAIT ends in one way. -/

namespace Sys2Proof.Machine

/-- A host operation in a sequence is a run followed by that operation. -/
theorem waitThen_eq_some_iff (n : Nat) (i : Instr) (s u : State) :
    waitThen n i s = some u ↔ ∃ t, run n s = .next t ∧ perform i t = .next u := by
  unfold waitThen
  cases run n s with
  | next t => cases h : perform i t <;> simp [h]
  | fault r => simp
  | refused r => simp

/-- With no steps before it and `rst` released, an operation that completes is `exec`'s. -/
theorem waitThen_zero_of_exec {i : Instr} {s t : State} (h : s.rst = false) (he : exec i s = .next t) :
    waitThen 0 i s = some t :=
  (waitThen_eq_some_iff 0 i s t).2 ⟨s, rfl, by rw [perform_of_running i h, he]⟩

/-- A read with no steps before it answers the register. -/
theorem readAfter_zero (a : Addr) {s : State} (h : s.rst = false) :
    readAfter 0 a s = some (regRead a s.blk, s.withRdata (regRead a s.blk)) := by
  rw [readAfter, waitThen_zero_of_exec (i := .rd a) h rfl]; rfl

/-- Everything a read can do: it answers the register of the record it leaves, which is the one before it, or the reset
record while `rst` is asserted (R111, R232). -/
theorem perform_rd_cases {a : Addr} {t u : State} (h : perform (.rd a) t = .next u) :
    u.busRdata = regRead a u.blk ∧ u.blk = (if t.rst then Block.reset else t.blk) ∧
      u.rst = t.rst ∧ u.pending = t.pending ∧ u.cfg = t.cfg := by
  cases hr : t.rst
  · rw [perform_of_running _ hr] at h
    cases h
    exact ⟨rfl, by simp, hr, rfl, rfl⟩
  · rw [perform_in_reset _ hr] at h
    cases h
    exact ⟨rfl, by simp, by simp [hr], by simp, by simp⟩

/-- Everything a read in a sequence can do. -/
theorem readAfter_cases {n : Nat} {a : Addr} {s u : State} {b : Byte} (h : readAfter n a s = some (b, u)) :
    ∃ t, run n s = .next t ∧ perform (.rd a) t = .next u ∧ b = regRead a u.blk ∧ b = u.busRdata := by
  rw [readAfter, Option.map_eq_some_iff] at h
  obtain ⟨w, hw, he⟩ := h
  obtain ⟨t, ht, hp⟩ := (waitThen_eq_some_iff n _ s w).1 hw
  cases he
  exact ⟨t, ht, hp, (perform_rd_cases hp).1, rfl⟩

/-- One poll: either it finds the block busy and the loop goes on, or it finds it idle and STATUS is read. -/
theorem pollUntilIdle_cases {last n : Nat} {polls : List Nat} {s t : State} {status : Byte}
    (h : pollUntilIdle last (n :: polls) s = some (status, t)) :
    ∃ flags u, readAfter n 0x4#4 s = some (flags, u) ∧
      (flags.getLsbD 0 = true ∧ pollUntilIdle last polls u = some (status, t) ∨
        flags.getLsbD 0 = false ∧ readAfter last 0x3#4 u = some (status, t)) := by
  rw [pollUntilIdle, Option.bind_eq_some_iff] at h
  obtain ⟨⟨flags, u⟩, hr, h⟩ := h
  refine ⟨flags, u, hr, ?_⟩
  dsimp only at h
  cases hf : flags.getLsbD 0 <;> rw [hf] at h
  · exact .inr ⟨rfl, h⟩
  · exact .inl ⟨rfl, h⟩

end Sys2Proof.Machine
end

