-- ==== Sys2Proof/Laws/Decode.lean ====
section
/-! SUPPORT. The fields of a packed word, and the words of commands. -/

namespace Sys2Proof

/-- A packed word as a number. -/
theorem pack_toNat (k : BitVec 2) (a : Addr) (d : Byte) :
    (pack k a d).toNat = k.toNat * 4096 + a.toNat * 256 + d.toNat := by
  have ha := a.isLt
  have hd := d.isLt
  show (k ++ a ++ d : BitVec (2 + 4 + 8)).toNat = _
  rw [BitVec.toNat_append, BitVec.toNat_append, ← Nat.shiftLeft_add_eq_or_of_lt ha,
    ← Nat.shiftLeft_add_eq_or_of_lt hd, Nat.shiftLeft_eq, Nat.shiftLeft_eq]
  omega

@[simp] theorem opwKind_pack (k : BitVec 2) (a : Addr) (d : Byte) : opwKind (pack k a d) = k := by
  have hk := k.isLt
  have ha := a.isLt
  have hd := d.isLt
  apply BitVec.eq_of_toNat_eq
  rw [opwKind, BitVec.extractLsb'_toNat, pack_toNat, Nat.shiftRight_eq_div_pow]
  omega

@[simp] theorem opwAddr_pack (k : BitVec 2) (a : Addr) (d : Byte) : opwAddr (pack k a d) = a := by
  have ha := a.isLt
  have hd := d.isLt
  apply BitVec.eq_of_toNat_eq
  rw [opwAddr, BitVec.extractLsb'_toNat, pack_toNat, Nat.shiftRight_eq_div_pow]
  omega

@[simp] theorem opwData_pack (k : BitVec 2) (a : Addr) (d : Byte) : opwData (pack k a d) = d := by
  have hd := d.isLt
  apply BitVec.eq_of_toNat_eq
  rw [opwData, BitVec.extractLsb'_toNat, pack_toNat, Nat.shiftRight_eq_div_pow]
  omega

/-- A word is its three fields (R71). -/
theorem pack_fields (w : Opw) : pack (opwKind w) (opwAddr w) (opwData w) = w := by
  have hw := w.isLt
  apply BitVec.eq_of_toNat_eq
  rw [pack_toNat, opwKind, opwAddr, opwData, BitVec.extractLsb'_toNat, BitVec.extractLsb'_toNat,
    BitVec.extractLsb'_toNat, Nat.shiftRight_eq_div_pow, Nat.shiftRight_eq_div_pow, Nat.shiftRight_eq_div_pow]
  omega

/-- A reserved command code gives CMD_RSVD (R77). -/
theorem command_of_reserved (d : Byte) (h : 4#8 ≤ d) : command d = .cmdRsvd d := by
  unfold command
  rw [if_neg (by rintro rfl; revert h; decide), if_neg (by rintro rfl; revert h; decide),
    if_neg (by rintro rfl; revert h; decide), if_neg (by rintro rfl; revert h; decide)]

/-- Every command code gives an operation that is well formed (R77). -/
theorem command_wf (d : Byte) : (command d).wf = true := by
  have h : ∀ d : Byte, (command d).wf = true := by decide
  exact h d

end Sys2Proof
end

