-- ==== Sys2Proof/Laws/PerInstr.lean ====
section
/-! SUPPORT. Families of statements with one lemma per constructor of Instr. EncodeFields: the three fields of an
operation's word are those of its format (R71, R73). -/

namespace Sys2Proof.Laws.EncodeFields

/-- The fields of the word of an operation. -/
def Statement (i : Instr) : Prop :=
  opwKind (encode i) = i.kindField ∧ opwAddr (encode i) = i.addrField ∧ opwData (encode i) = i.dataField

theorem nop : Statement .nop := ⟨opwKind_pack _ _ _, opwAddr_pack _ _ _, opwData_pack _ _ _⟩

theorem start : Statement .start := ⟨opwKind_pack _ _ _, opwAddr_pack _ _ _, opwData_pack _ _ _⟩

theorem convAck : Statement .convAck := ⟨opwKind_pack _ _ _, opwAddr_pack _ _ _, opwData_pack _ _ _⟩

theorem srst : Statement .srst := ⟨opwKind_pack _ _ _, opwAddr_pack _ _ _, opwData_pack _ _ _⟩

theorem cmdRsvd (d : Byte) : Statement (.cmdRsvd d) := ⟨opwKind_pack _ _ _, opwAddr_pack _ _ _, opwData_pack _ _ _⟩

theorem wrNoCmd (a : Addr) (d : Byte) : Statement (.wrNoCmd a d) :=
  ⟨opwKind_pack _ _ _, opwAddr_pack _ _ _, opwData_pack _ _ _⟩

theorem rd (a : Addr) : Statement (.rd a) := ⟨opwKind_pack _ _ _, opwAddr_pack _ _ _, opwData_pack _ _ _⟩

theorem edge : Statement .edge := ⟨opwKind_pack _ _ _, opwAddr_pack _ _ _, opwData_pack _ _ _⟩

theorem release : Statement .release := ⟨opwKind_pack _ _ _, opwAddr_pack _ _ _, opwData_pack _ _ _⟩

end Sys2Proof.Laws.EncodeFields
end

