-- ==== Sys2Proof/Laws/Registers.lean ====
section
/-! SUPPORT. The register view, one lemma for each register (R36, R111), so that no proof unfolds it. -/

namespace Sys2Proof.Machine

variable (b : Block)

@[simp] theorem regRead_cmd : regRead 0x0#4 b = 0x00#8 := rfl
@[simp] theorem regRead_result : regRead 0x1#4 b = b.result.byte := rfl
@[simp] theorem regRead_state : regRead 0x2#4 b = b.state.code.setWidth 8 := rfl
@[simp] theorem regRead_status : regRead 0x3#4 b = b.status.byte := rfl
@[simp] theorem regRead_flags : regRead 0x4#4 b = flagsByte b := rfl
@[simp] theorem regRead_frame0 : regRead 0x5#4 b = b.frame.b0 := rfl
@[simp] theorem regRead_frame1 : regRead 0x6#4 b = b.frame.b1 := rfl
@[simp] theorem regRead_frame2 : regRead 0x7#4 b = b.frame.b2 := rfl
@[simp] theorem regRead_frame3 : regRead 0x8#4 b = b.frame.b3 := rfl
@[simp] theorem regRead_frame4 : regRead 0x9#4 b = b.frame.b4 := rfl
@[simp] theorem regRead_cursor : regRead 0xA#4 b = cursorByte b := rfl

/-- Addresses 0xB to 0xF read 0x00. -/
theorem regRead_reserved {a : Addr} (h : 0xB#4 ≤ a) : regRead a b = 0x00#8 := by
  have ha : ∀ a : Addr, 0xB#4 ≤ a → a = 0xB ∨ a = 0xC ∨ a = 0xD ∨ a = 0xE ∨ a = 0xF := by decide
  rcases ha a h with h | h | h | h | h <;> subst h <;> rfl

end Sys2Proof.Machine
end

