-- ==== Sys2Proof/Tests/Slice0.lean ====
section
/-! SUPPORT. The model's own tests: the well-formedness smoke, decoding of words written out from the spec's formats,
at most two one-step tests for an operation (V-… names the vector of 95_test_vectors.md that an expected value comes
from), and for every statement with hypotheses a witness that meets them. -/

namespace Sys2Proof.Tests
open Sys2Proof Sys2Proof.Machine
set_option maxRecDepth 8192

/-! ### Sample states, from the vectors -/

/-- The next state that an outcome answers, if it answers one. -/
def nextOf : Out → Option State
  | .next s => some s
  | .fault _ => none
  | .refused _ => none

/-- What a test looks at in a next state. -/
def see {α : Type} (f : State → α) (o : Out) : Option α := (nextOf o).map f

/-- A DHT22 block with the defaults of R8 and the throttle interval of the vectors, with this record and these times. -/
def at_ (b : Block) (us ms : U32) : State :=
  { State.resetWith (Params.defaults .dht22 2000) with blk := b, tsUs := us, tsMs := ms }

/-- With these inputs next. -/
def feeding (s : State) (q : List Input) : State := { s with pending := q }

/-- Before V-START-2: Stopped, a trigger issued at 1000 ms. -/
def idleBlk : Block := { Block.reset with firstDone := true, lastAcq := 1000 }

/-- The trigger hold that began at 1000 us (before V-REL-1). -/
def holdBlk : Block :=
  { Block.reset with
    state := .awaitingResponse, driveLow := true, firstDone := true, result := .acquiring, holdStart := 1000 }

/-- Armed, the reference at 1000 us (before the V-AWR vectors). -/
def awaitBlk : Block :=
  { Block.reset with
    state := .awaitingResponse, armed := true, firstDone := true, result := .acquiring, lastEdge := 1000 }

/-- The response seen at 1190 us (before the V-RXD vectors). -/
def dataBlk : Block := { awaitBlk with state := .receivingData, lastEdge := 1190 }

/-- One bit short of the frame of program P1 (before V-BIT-4). -/
def lastBitBlk : Block :=
  { dataBlk with byteCur := 4, bitCur := 7, frame := ⟨0x02, 0x8C, 0x00, 0xAD, 0x1D⟩ }

/-- The frame of program P1, accepted. -/
def acquiredBlk : Block :=
  { Block.reset with
    state := .acquired, status := .ok, result := .acquiring, frame := ⟨0x02, 0x8C, 0x00, 0xAD, 0x3B⟩,
    byteCur := 5, convPending := true, firstDone := true, lastEdge := 1300 }

theorem idleBlk_inv : BlockInv idleBlk := by constructor <;> decide
theorem holdBlk_inv : BlockInv holdBlk := by constructor <;> decide
theorem awaitBlk_inv : BlockInv awaitBlk := by constructor <;> decide
theorem dataBlk_inv : BlockInv dataBlk := by constructor <;> decide
theorem lastBitBlk_inv : BlockInv lastBitBlk := by constructor <;> decide
theorem acquiredBlk_inv : BlockInv acquiredBlk := by constructor <;> decide

/-- A sample state meets the invariant when its record does. -/
theorem inv_of (b : Block) (us ms : U32) (q : List Input) (h : BlockInv b) : Inv (feeding (at_ b us ms) q) :=
  ⟨h, fun hr => by cases hr⟩

/-! ### Well-formedness: an ill-formed term for each check (R76, R77) -/

theorem test_wf_command_code_not_reserved : (Instr.cmdRsvd 0x03).wf = false := by decide
theorem test_wf_write_to_cmd_is_a_command : (Instr.wrNoCmd 0x0 0x05).wf = false := by decide
theorem test_wf_boundaries : (Instr.cmdRsvd 0x04).wf = true ∧ (Instr.wrNoCmd 0x1 0x00).wf = true := by decide

/-! ### Decoding: words written out from R71, R73, R77 and the encodings of 95_test_vectors.md -/

theorem test_decode_nop : decode 0b00_0000_00000000#14 = .ok .nop := rfl
theorem test_decode_start : decode 0b00_0000_00000001#14 = .ok .start := rfl
theorem test_decode_convAck : decode 0b00_0000_00000010#14 = .ok .convAck := rfl
theorem test_decode_srst : decode 0b00_0000_00000011#14 = .ok .srst := rfl
theorem test_decode_cmdRsvd :
    decode 0b00_0000_00000100#14 = .ok (.cmdRsvd 0x04) ∧ decode 0b00_0000_11111111#14 = .ok (.cmdRsvd 0xFF) :=
  ⟨rfl, rfl⟩
theorem test_decode_wrNoCmd :
    decode 0b00_0011_00000001#14 = .ok (.wrNoCmd 0x3 0x01) ∧ decode 0b00_1111_10100101#14 = .ok (.wrNoCmd 0xF 0xA5) :=
  ⟨rfl, rfl⟩
theorem test_decode_rd :
    decode 0x1200#14 = .ok (.rd 0x2) ∧ decode 0x1A00#14 = .ok (.rd 0xA) ∧ decode 0x1000#14 = .ok (.rd 0x0) :=
  ⟨rfl, rfl, rfl⟩
theorem test_decode_edge : decode 0x2000#14 = .ok .edge := rfl
theorem test_decode_release : decode 0x3000#14 = .ok .release := rfl
theorem test_decode_invalid :
    decode 0x1201#14 = .error .readWithData ∧ decode 0x2001#14 = .error .edgeWithOperand ∧
      decode 0x3100#14 = .error .releaseWithOperand := ⟨rfl, rfl, rfl⟩
theorem test_decode_table_words :
    decodeTableWord 16 0x0001 = some .start ∧ decodeTableWord 16 0x0510 = some (.wrNoCmd 0x5 0x10) ∧
      decodeTableWord 16 0x3001 = none ∧ decodeTableWord 16 0x4001 = none := by decide

/-! ### One step of each operation -/

/-- V-CMD-4. -/
theorem test_nop : nextOf (exec .nop (at_ dataBlk 5 6)) = some (at_ dataBlk 5 6) := by decide

/-- V-START-1: result, flags, and the two captured times. -/
theorem test_start_after_reset :
    see (fun t => (regRead 0x1 t.blk, regRead 0x2 t.blk, regRead 0x4 t.blk, t.blk.holdStart, t.blk.lastAcq))
      (exec .start (at_ Block.reset 0 0)) = some (0x02, 0x01, 0x19, 0, 0) := by decide

/-- V-START-8 and V-START-9: the throttle interval across the wrap. -/
theorem test_start_throttle_wraps :
    see (fun t => regRead 0x1 t.blk) (exec .start (at_ { idleBlk with lastAcq := 0xFFFFFFF0 } 0 0x7BF)) = some 0x03 ∧
      see (fun t => regRead 0x1 t.blk) (exec .start (at_ { idleBlk with lastAcq := 0xFFFFFFF0 } 0 0x7C0)) = some 0x02 := by
  decide

/-- V-CMD-1: FLAGS 0x12 to 0x10. -/
theorem test_convAck :
    see (fun t => (regRead 0x4 t.blk, regRead 0x2 t.blk, regRead 0x3 t.blk, t.blk.frame))
      (exec .convAck (at_ acquiredBlk 0 0)) = some (0x10, 0x03, 0x01, acquiredBlk.frame) := by decide

/-- V-CMD-3. -/
theorem test_srst :
    see (fun t => (regRead 0x2 t.blk, regRead 0x3 t.blk, regRead 0x1 t.blk, regRead 0x4 t.blk, t.blk.frame))
      (exec .srst (at_ { lastBitBlk with status := .ok } 0 0)) = some (0x00, 0xF9, 0x00, 0x00, ⟨0, 0, 0, 0, 0⟩) := by
  decide

/-- V-CMD-5. -/
theorem test_cmdRsvd : nextOf (exec (.cmdRsvd 0xFF) (at_ acquiredBlk 5 6)) = some (at_ acquiredBlk 5 6) := by decide

/-- V-CMD-6: STATUS is read-only. -/
theorem test_wrNoCmd :
    see (fun t => regRead 0x3 t.blk) (exec (.wrNoCmd 0x3 0x01) (at_ { idleBlk with status := .isrTimeout } 0 0)) =
      some 0xFE := by decide

/-- V-CMD-8: CURSOR and a partial byte. -/
theorem test_rd_partial :
    let b := { dataBlk with byteCur := 1, bitCur := 2, frame := ⟨0x20, 0x03, 0, 0, 0⟩ };
    see (·.busRdata) (exec (.rd 0xA) (at_ b 0 0)) = some 0x12 ∧ see (·.busRdata) (exec (.rd 0x6) (at_ b 0 0)) = some 0x03 := by
  decide

/-- V-CMD-7: the register map after reset. -/
theorem test_rd_reset :
    see (·.busRdata) (exec (.rd 0x3) (at_ Block.reset 0 0)) = some 0xF9 ∧
      see (·.busRdata) (exec (.rd 0x4) (at_ Block.reset 0 0)) = some 0x00 ∧
      see (·.busRdata) (exec (.rd 0xF) (at_ Block.reset 0 0)) = some 0x00 := by decide

/-- V-BIT-4: the fortieth bit, a 1 with delta 120. -/
theorem test_edge_completes_frame :
    see (fun t => (regRead 0x9 t.blk, regRead 0xA t.blk, regRead 0x2 t.blk, regRead 0x3 t.blk, regRead 0x4 t.blk))
      (exec .edge (at_ lastBitBlk 1310 0)) = some (0x3B, 0x50, 0x03, 0x01, 0x12) := by decide

/-- Line 59 of program P4: a delta of 5 after the ninth and tenth data bits. -/
theorem test_edge_glitch_keeps_cursor :
    see (fun t => (regRead 0x2 t.blk, regRead 0x3 t.blk, regRead 0xA t.blk, t.blk.lastEdge))
      (exec .edge
        (at_ { dataBlk with byteCur := 1, bitCur := 2, frame := ⟨0x20, 0x03, 0, 0, 0⟩, lastEdge := 619096 } 619101 0)) =
      some (0x00, 0xFA, 0x12, 619101) := by decide

/-- V-REL-1 and V-REL-2. -/
theorem test_release_hold :
    nextOf (exec .release (at_ holdBlk 1999 0)) = some (at_ holdBlk 1999 0) ∧
      see (fun t => (regRead 0x4 t.blk, t.blk.lastEdge)) (exec .release (at_ holdBlk 2000 0)) = some (0x15, 2000) := by
  decide

/-- V-REL-5: the hold across the wrap. -/
theorem test_release_wraps :
    see (fun t => (t.blk.armed, t.blk.driveLow, t.blk.lastEdge))
      (exec .release (at_ { holdBlk with holdStart := 0xFFFFFF00 } 0x2E8 0)) = some (true, false, 0x2E8) := by decide

/-! ### The operations behind EDGE -/

/-- V-AWR-1 to V-AWR-10: the deltas at each bound in AwaitingResponse. -/
theorem test_classify_awaiting :
    ([0, 64, 65, 125, 126, 199, 200, 6000, 6001, 0xFFFFFFFF] : List U32).map
        (classify (Params.defaults .dht22 2000) .awaitingResponse) =
      [.jitter, .jitter, .responseTimeout, .responseTimeout, .response, .response, .responseTimeout,
        .responseTimeout, .stall, .stall] := by decide

/-- V-RXD-1 to V-RXD-11: the deltas at each bound in ReceivingData. -/
theorem test_classify_data :
    ([0, 9, 10, 60, 61, 109, 110, 154, 155, 6000, 6001] : List U32).map
        (classify (Params.defaults .dht22 2000) .receivingData) =
      [.glitch, .glitch, .dataTimeout, .dataTimeout, .dataBit false, .dataBit false, .dataBit true, .dataBit true,
        .dataTimeout, .dataTimeout, .stall] := by decide

/-- V-BIT-2 and V-BIT-3: the cursors at a byte's end. -/
theorem test_shiftIn_byte_end :
    (shiftIn false { dataBlk with frame := ⟨0x10, 0, 0, 0, 0⟩, bitCur := 7 }).map (fun b => (b.frame.b0, cursorByte b)) =
        some (0x20, 0x10) ∧
      (shiftIn true { dataBlk with frame := ⟨0, 0, 0, 0x56, 0⟩, byteCur := 3, bitCur := 7 }).map
        (fun b => (b.frame.b3, cursorByte b)) = some (0xAD, 0x40) := by decide

/-- V-CK-1 to V-CK-7. -/
theorem test_checksum :
    ([⟨0x02, 0x8C, 0x00, 0xAD, 0x3B⟩, ⟨0x02, 0x90, 0x00, 0xAD, 0x3F⟩, ⟨0x02, 0x8C, 0x00, 0xAD, 0x39⟩,
        ⟨0x02, 0x8D, 0x00, 0xAD, 0x3B⟩, ⟨0xFF, 0xFF, 0xFF, 0xFF, 0xFC⟩, ⟨0, 0, 0, 0, 0⟩,
        ⟨0x02, 0x8C, 0x00, 0xAD, 0xBB⟩] : List Frame).map Frame.checksumOk =
      [true, true, false, false, true, true, false] := by decide

/-- V-CONS-1 to V-CONS-3. -/
theorem test_interpret :
    interpret .dht22 ⟨0x02, 0x8C, 0x00, 0xAD, 0x3B⟩ = ⟨652, 173⟩ ∧
      interpret .dht11 ⟨0x20, 0x00, 0x19, 0x00, 0x39⟩ = ⟨320, 250⟩ ∧
      (interpret .dht11 ⟨0x20, 0x00, 0x19, 0x00, 0x39⟩).fahrenheitHundredths = 7700 ∧
      (interpret .dht11 ⟨0x20, 0x00, 0x19, 0x00, 0x39⟩).kelvinHundredths = 29815 ∧
      interpret .dht22 ⟨0x02, 0x8C, 0x80, 0x65, 0x73⟩ = ⟨652, -101⟩ := by decide

/-- Lines 1 and 2 of program P1, and a relative time. -/
theorem test_assemble :
    assemble [⟨some (.absolute 1000000), some (.absolute 10000), .start⟩, ⟨some (.relative 1000), none, .release⟩,
        ⟨none, none, .rdName .cursor⟩] =
      [⟨.opw 0x0001, 1000000, 10000⟩, ⟨.opw 0x3000, 1001000, 10000⟩, ⟨.opw 0x1A00, 1001000, 10000⟩] := by decide

/-! ### Witnesses: states and operands that meet a statement's hypotheses -/

theorem witness_reset_inv : Inv State.reset ∧ Inv (State.resetWith (Params.defaults .dht11 0)) :=
  ⟨⟨by constructor <;> decide, fun _ => rfl⟩, ⟨by constructor <;> decide, fun _ => rfl⟩⟩

theorem witness_ResetSetsEveryField :
    (feeding (at_ lastBitBlk 1 2) [⟨.rstLevel true, 3, 4⟩, ⟨.rstLevel false, 5, 6⟩]).pending =
      ⟨.rstLevel true, 3, 4⟩ :: ⟨.rstLevel false, 5, 6⟩ :: [] := rfl

/-- Each clause: nothing pending under `rst`, a read of STATUS and a START under it, and `rst` asserted on a busy block. -/
theorem witness_NothingTakesEffectInReset :
    (∃ s : State, Inv s ∧ s.rst = true ∧ s.pending = []) ∧
    (∃ (s : State) (inp : Input), Inv s ∧ s.pending = inp :: [] ∧ s.rst = true ∧ inp.valid = true ∧
      (∀ level, inp.stim ≠ .rstLevel level) ∧ inp.stim.instr = some (.rd 0x3)) ∧
    (∃ (s : State) (inp : Input), Inv s ∧ s.pending = inp :: [] ∧ s.rst = true ∧ inp.valid = true ∧
      (∀ level, inp.stim ≠ .rstLevel level) ∧ ∀ a, inp.stim.instr ≠ some (.rd a)) ∧
    (∃ (s : State) (inp : Input), Inv s ∧ s.pending = inp :: [] ∧ s.rst = false ∧ busy s.blk = true ∧
      inp.stim = .rstLevel true) :=
  ⟨⟨{ at_ Block.reset 1 2 with rst := true }, ⟨by constructor <;> decide, fun _ => rfl⟩, by decide⟩,
    ⟨{ feeding (at_ Block.reset 1 2) [⟨.busRead 0x3, 3, 4⟩] with rst := true }, ⟨.busRead 0x3, 3, 4⟩,
      ⟨by constructor <;> decide, fun _ => rfl⟩, by decide⟩,
    ⟨{ feeding (at_ Block.reset 1 2) [⟨.opw 0x0001, 3, 4⟩] with rst := true }, ⟨.opw 0x0001, 3, 4⟩,
      ⟨by constructor <;> decide, fun _ => rfl⟩, by decide⟩,
    ⟨feeding (at_ dataBlk 1 2) [⟨.rstLevel true, 3, 4⟩], ⟨.rstLevel true, 3, 4⟩, inv_of _ _ _ _ dataBlk_inv, by decide⟩⟩

/-- Both clauses, the second by SRST and by `rst`, with an EDGE, a CONV_ACK and a read between. -/
theorem witness_FirstStartAfterResetTriggers :
    exec .srst (at_ acquiredBlk 7 8) = .next (at_ Block.reset 7 8) ∧
    (let first : Input := ⟨.opw 0x0003, 7, 8⟩;
      let mid : List Input := [edgeInput 9 9, ⟨.busWrite 0x0 0x02, 10, 10⟩, ⟨.busRead 0x3, 11, 11⟩];
      let second : Input := ⟨.busWrite 0x0 0x01, 12, 12⟩;
      (feeding (at_ acquiredBlk 0 0) (first :: (mid ++ second :: []))).pending = first :: (mid ++ second :: []) ∧
        first.resets = true ∧ second.starts = true ∧
        mid.all (fun inp => inp.valid && !inp.starts) = true ∧
        see (fun u => u.rst) (run 4 (feeding (at_ acquiredBlk 0 0) (first :: (mid ++ second :: [])))) = some false) ∧
    (let first : Input := ⟨.rstLevel true, 7, 8⟩;
      let mid : List Input := [⟨.rstLevel false, 9, 9⟩];
      first.resets = true ∧ mid.all (fun inp => inp.valid && !inp.starts) = true ∧
        see (fun u => u.rst) (run 2 (feeding (at_ dataBlk 0 0) (first :: mid))) = some false) :=
  ⟨rfl, by decide⟩

/-- An accepted configuration on every bound of R9, and one that is refused. -/
theorem witness_InstantiateOnlyLegalConfigurations :
    State.instantiate ⟨.dht22, 800, 0, 155, 65, 65, 66, 10, 155, 11, 10⟩ =
        some (State.resetWith ⟨.dht22, 800, 0, 155, 65, 65, 66, 10, 155, 11, 10⟩) ∧
      State.instantiate { Params.defaults .dht22 2000 with holdUs := 20001 } = none ∧
      State.instantiate { Params.defaults .dht11 2000 with holdUs := 17999 } = none := by decide

/-- Each clause at a boundary word. -/
theorem witness_DecodeFollowsOpcodeMap :
    0x0000#14 = 0b00#2 ++ 0x0#4 ++ 0x00#8 ∧ 0x0001#14 = 0b00#2 ++ 0x0#4 ++ 0x01#8 ∧
      0x0002#14 = 0b00#2 ++ 0x0#4 ++ 0x02#8 ∧ 0x0003#14 = 0b00#2 ++ 0x0#4 ++ 0x03#8 ∧
      (0x0004#14 = 0b00#2 ++ 0x0#4 ++ 0x04#8 ∧ 0x04#8 ≤ 0x04#8) ∧ (0x00FF#14 = 0b00#2 ++ 0x0#4 ++ 0xFF#8 ∧ 0x04#8 ≤ 0xFF#8) ∧
      (0x0100#14 = 0b00#2 ++ 0x1#4 ++ 0x00#8 ∧ 0x1#4 ≠ 0x0#4) ∧ 0x1F00#14 = 0b01#2 ++ 0xF#4 ++ 0x00#8 ∧
      0x2000#14 = 0b10#2 ++ 0x0#4 ++ 0x00#8 ∧ 0x3000#14 = 0b11#2 ++ 0x0#4 ++ 0x00#8 ∧
      (0x1001#14 = 0b01#2 ++ 0x0#4 ++ 0x01#8 ∧ 0x01#8 ≠ 0x00#8) ∧ (0x3F00#14 = 0b11#2 ++ 0xF#4 ++ 0x00#8 ∧ 0xF#4 ≠ 0x0#4) := by
  decide

theorem witness_DecodeInvertsEncode :
    (Instr.cmdRsvd 0x04).wf = true ∧ (Instr.cmdRsvd 0xFF).wf = true ∧ (Instr.wrNoCmd 0x1 0x00).wf = true ∧
      (Instr.rd 0xF).wf = true ∧ Instr.edge.wf = true := by decide

theorem witness_EncodeInvertsDecode : decode 0x0FFF#14 = .ok (.wrNoCmd 0xF 0xFF) := rfl

/-- Each clause: a word that decodes, one that does not, a write strobe, a read strobe, a fall of `sig_in`. -/
theorem witness_StepRunsDecodedOperation :
    (at_ awaitBlk 0 0).rst = false ∧ decode 0x2000#14 = .ok .edge ∧ decode 0x2001#14 = .error .edgeWithOperand ∧
      (∀ st ∈ ([.opw 0x2000, .opw 0x2001, .busWrite 0x0 0x01, .busRead 0xA, .sigLevel false] : List Stimulus),
        (feeding (at_ awaitBlk 0 0) [⟨st, 5, 6⟩]).pending = ⟨st, 5, 6⟩ :: []) ∧ (at_ awaitBlk 0 0).sigIn = true :=
  ⟨rfl, rfl, rfl, by decide⟩

/-- Both ways: the line falls, and it does not. -/
theorem witness_SignalFallIsEdge :
    ∀ level, (feeding (at_ awaitBlk 0 0) [⟨.sigLevel level, 1190, 0⟩]).rst = false ∧
      (feeding (at_ awaitBlk 0 0) [⟨.sigLevel level, 1190, 0⟩]).sigIn = true ∧
      (feeding (at_ awaitBlk 0 0) [⟨.sigLevel level, 1190, 0⟩]).pending = ⟨.sigLevel level, 1190, 0⟩ :: [] := by decide

theorem witness_FetchWordRunsThatOperation : decodeTableWord 16 0x1A00 = some (.rd 0xA) := by decide

theorem witness_NoEffectOperationsChangeNothing : 0x04#8 ≤ 0x04#8 ∧ 0x1#4 ≠ 0x0#4 := by decide

/-- The three paths, on both sides of the interval (V-START-2 to V-START-5). -/
theorem witness_StartThrottlesThenRejectsThenTriggers :
    (let s := at_ idleBlk 0 2999; s.blk.firstDone = true ∧ s.tsMs - s.blk.lastAcq < s.cfg.throttleMs) ∧
    (let s := at_ { awaitBlk with lastAcq := 1000 } 0 3000;
      ¬(s.blk.firstDone = true ∧ s.tsMs - s.blk.lastAcq < s.cfg.throttleMs) ∧
        (s.blk.state = .awaitingResponse ∨ s.blk.state = .receivingData)) ∧
    (let s := at_ idleBlk 0 3000;
      ¬(s.blk.firstDone = true ∧ s.tsMs - s.blk.lastAcq < s.cfg.throttleMs) ∧
        (s.blk.state = .stopped ∨ s.blk.state = .acquired)) := by decide

theorem witness_StartWhileBusyOnlyWritesResult :
    Inv (at_ awaitBlk 0 1999) ∧ busy (at_ awaitBlk 0 1999).blk = true :=
  ⟨inv_of _ _ _ [] awaitBlk_inv, by decide⟩

/-- The second START one millisecond inside the interval, with a read between. -/
theorem witness_ThrottleBetweenStarts :
    let q : List Input := [⟨.opw 0x0001, 10, 3000⟩, ⟨.busRead 0x4, 20, 3001⟩, ⟨.busWrite 0x0 0x01, 30, 4999⟩];
    let s := feeding (at_ idleBlk 0 0) q;
    (Inv s ∧ s.rst = false) ∧ s.pending = q[0] :: ([q[1]] ++ q[2] :: []) ∧ q[0].starts = true ∧ q[2].starts = true ∧
      (s.blk.state = .stopped ∨ s.blk.state = .acquired) ∧
      ¬(s.blk.firstDone = true ∧ q[0].nowMs - s.blk.lastAcq < s.cfg.throttleMs) ∧
      (∀ inp ∈ [q[1]], inp.valid = true ∧ inp.starts = false ∧ inp.resets = false) :=
  ⟨⟨inv_of _ _ _ _ idleBlk_inv, rfl⟩, by decide⟩

theorem witness_RdAnswersTheRegister : (0xB#4 ≤ 0xB#4) ∧ (0xB#4 ≤ 0xF#4) := by decide

/-- Both clauses, the second in each of its ways (V-REL-1, V-REL-2, V-REL-6). -/
theorem witness_ReleaseArmsEdgeDetection :
    (let s := at_ holdBlk 2000 0; s.blk.driveLow = true ∧ s.cfg.holdUs ≤ s.tsUs - s.blk.holdStart) ∧
    (let s := at_ holdBlk 1999 0; s.blk.driveLow = true ∧ s.tsUs - s.blk.holdStart < s.cfg.holdUs) ∧
    (at_ awaitBlk 5000 0).blk.driveLow = false := by decide

theorem witness_ReleaseNotEnabledIsNoStep :
    (at_ awaitBlk 5000 0).blk.driveLow = false ∧
      (at_ holdBlk 1999 0).tsUs - (at_ holdBlk 1999 0).blk.holdStart < (at_ holdBlk 1999 0).cfg.holdUs := by decide

theorem witness_HoldTimerReleasesIdleBlock :
    ((at_ holdBlk 1999 0).rst = false ∧ (at_ holdBlk 1999 0).pending = [] ∧ (at_ holdBlk 1999 0).blk.driveLow = true) ∧
      (at_ holdBlk 2000 0).rst = false ∧ (at_ holdBlk 2000 0).pending = [] ∧ (at_ holdBlk 2000 0).blk.driveLow = true := by
  decide

/-- The trigger just past the throttle interval, RELEASE at the end of the hold, and SRST before it. -/
theorem witness_LineDrivenFromTriggerToRelease :
    (let s := at_ idleBlk 0 3000;
      busy s.blk = false ∧ ¬(s.blk.firstDone = true ∧ s.tsMs - s.blk.lastAcq < s.cfg.throttleMs)) ∧
    (let s := at_ holdBlk 2000 0; s.sigDriveLow = true ∧ s.cfg.holdUs ≤ s.tsUs - s.blk.holdStart) ∧
    see (·.sigDriveLow) (exec .start (at_ idleBlk 0 3000)) = some true ∧
      see (·.sigDriveLow) (exec .release (at_ holdBlk 2000 0)) = some false ∧
      see (·.sigDriveLow) (exec .srst (at_ holdBlk 1999 0)) = some false := by decide

theorem witness_DisarmedEdgeHasNoEffect : (at_ holdBlk 1500 0).blk.armed = false := by decide

/-- Both sides of the threshold. -/
theorem witness_StallGuardAborts :
    (let s := at_ awaitBlk 7001 0; s.blk.armed = true ∧ s.cfg.tStall < s.tsUs - s.blk.lastEdge) ∧
    (let s := at_ { awaitBlk with status := .isrTimeout } 1064 0;
      s.blk.armed = true ∧ s.tsUs - s.blk.lastEdge ≤ s.cfg.tStall ∧
        see (fun t => t.blk.status) (exec .edge s) = some .isrTimeout) ∧
    (let s := at_ { acquiredBlk with status := .isrTimeout, armed := true } 7300 0;
      s.blk.armed = true ∧ s.tsUs - s.blk.lastEdge ≤ s.cfg.tStall ∧
        see (fun t => t.blk.status) (exec .edge s) = some .isrTimeout) := by decide

/-- One jitter edge at the ceiling, and the three of V-AWR-11. -/
theorem witness_JitterEdgesRollBack :
    (let s := at_ awaitBlk 1064 0;
      s.blk.armed = true ∧ s.blk.state = .awaitingResponse ∧ s.tsUs - s.blk.lastEdge ≤ s.cfg.tStall ∧
        s.tsUs - s.blk.lastEdge < s.cfg.tJitter) ∧
    (let times : List U32 := [1020, 1050, 1064];
      let s := feeding (at_ awaitBlk 1000 0) (times.map (fun us => edgeInput us 9));
      s.rst = false ∧ s.blk.armed = true ∧ s.blk.state = .awaitingResponse ∧ s.cfg.tJitter ≤ s.cfg.tStall ∧
        (∀ us ∈ times, us - s.blk.lastEdge < s.cfg.tJitter) ∧
        s.pending = times.map (fun us => edgeInput us 9) ++ []) :=
  ⟨by decide, by decide, by decide, by decide, by decide,
    List.forall_mem_cons.2 ⟨by decide, List.forall_mem_cons.2 ⟨by decide, List.forall_mem_cons.2 ⟨by decide, nofun⟩⟩⟩,
    rfl⟩

theorem witness_ResponseEdgeBeginsData :
    Inv (at_ awaitBlk 1126 0) ∧
    ([1126, 1199] : List U32).all (fun us => let s := at_ awaitBlk us 0; decide (
      s.blk.armed = true ∧ s.blk.state = .awaitingResponse ∧ s.cfg.tRespLo < s.tsUs - s.blk.lastEdge ∧
        s.tsUs - s.blk.lastEdge < s.cfg.tRespHi ∧ s.tsUs - s.blk.lastEdge ≤ s.cfg.tStall ∧
        s.cfg.tJitter ≤ s.tsUs - s.blk.lastEdge ∧ s.cfg.ThresholdsLegal)) = true :=
  ⟨inv_of _ _ _ [] awaitBlk_inv, by decide⟩

theorem witness_LateOrEarlyResponseAborts :
    ([1065, 1125, 1200, 7000] : List U32).all (fun us => let s := at_ awaitBlk us 0; decide (
      s.blk.armed = true ∧ s.blk.state = .awaitingResponse ∧ s.tsUs - s.blk.lastEdge ≤ s.cfg.tStall ∧
        s.cfg.tJitter ≤ s.tsUs - s.blk.lastEdge ∧
        (s.tsUs - s.blk.lastEdge ≤ s.cfg.tRespLo ∨ s.cfg.tRespHi ≤ s.tsUs - s.blk.lastEdge))) = true := by decide

/-- The four clauses: inside a byte, at a byte's end, and the frame's last bit with each outcome (120 for a 1 bit,
78 for a 0 bit: programs P1 and P3). -/
theorem witness_ValidDataEdgeShiftsAndValidates :
    [dataBlk, { dataBlk with bitCur := 7 }, { dataBlk with byteCur := 3, bitCur := 7 }, lastBitBlk].all (fun b =>
      ([1251, 1344] : List U32).all (fun us => let s := at_ b us 0; decide (
        s.blk.armed = true ∧ s.blk.state = .receivingData ∧ s.blk.byteCur ≤ 4#3 ∧
          s.cfg.tBitLo < s.tsUs - s.blk.lastEdge ∧ s.tsUs - s.blk.lastEdge < s.cfg.tBitHi ∧
          s.tsUs - s.blk.lastEdge ≤ s.cfg.tStall ∧ s.cfg.ThresholdsLegal))) = true ∧
    dataBlk.bitCur < 7#3 ∧ (lastBitBlk.bitCur = 7#3 ∧ lastBitBlk.byteCur = 4#3) ∧
    see (fun t => t.blk.state) (exec .edge (at_ lastBitBlk 1310 0)) = some .acquired ∧
    see (fun t => t.blk.state) (exec .edge (at_ lastBitBlk 1268 0)) = some .stopped := by decide

theorem witness_GlitchAborts :
    let s := at_ dataBlk 1199 0;
    s.blk.armed = true ∧ s.blk.state = .receivingData ∧ s.tsUs - s.blk.lastEdge < s.cfg.tGlitch ∧
      s.tsUs - s.blk.lastEdge ≤ s.cfg.tStall ∧
      ¬(s.cfg.tBitLo < s.tsUs - s.blk.lastEdge ∧ s.tsUs - s.blk.lastEdge < s.cfg.tBitHi) ∧ s.cfg.ThresholdsLegal := by
  decide

theorem witness_DataTimeoutAborts :
    ([1200, 1250, 1345, 7190] : List U32).all (fun us => let s := at_ dataBlk us 0; decide (
      s.blk.armed = true ∧ s.blk.state = .receivingData ∧ s.tsUs - s.blk.lastEdge ≤ s.cfg.tStall ∧
        s.cfg.tGlitch ≤ s.tsUs - s.blk.lastEdge ∧
        ¬(s.cfg.tBitLo < s.tsUs - s.blk.lastEdge ∧ s.tsUs - s.blk.lastEdge < s.cfg.tBitHi) ∧
        s.cfg.ThresholdsLegal ∧
        (s.cfg.tGlitch ≤ s.tsUs - s.blk.lastEdge ∧ s.tsUs - s.blk.lastEdge ≤ s.cfg.tBitLo ∨
          s.cfg.tBitHi ≤ s.tsUs - s.blk.lastEdge ∧ s.tsUs - s.blk.lastEdge ≤ s.cfg.tStall))) = true := by decide

/-- The three clauses: a state of a run, and the two sides of the threshold in an armed terminal state. -/
theorem witness_ArmedTerminalEdgeChangesNothing :
    Inv (at_ acquiredBlk 1400 0) ∧ (at_ acquiredBlk 1400 0).blk.state = .acquired ∧
    (let s := at_ { acquiredBlk with armed := true } 7300 0;
      s.blk.armed = true ∧ s.tsUs - s.blk.lastEdge ≤ s.cfg.tStall) ∧
    (let s := at_ { idleBlk with armed := true } 6001 0;
      s.blk.state = .stopped ∧ s.blk.armed = true ∧ s.cfg.tStall < s.tsUs - s.blk.lastEdge) :=
  ⟨inv_of _ _ _ [] acquiredBlk_inv, by decide⟩

theorem witness_CursorPastFrameFaults :
    let s := at_ { dataBlk with byteCur := 5 } 1251 0;
    s.blk.armed = true ∧ s.blk.state = .receivingData ∧ 5#3 ≤ s.blk.byteCur ∧
      s.tsUs - s.blk.lastEdge ≤ s.cfg.tStall ∧ s.cfg.tBitLo < s.tsUs - s.blk.lastEdge ∧
      s.tsUs - s.blk.lastEdge < s.cfg.tBitHi := by decide

/-- At every bound of the table (V-AWR-1 to V-AWR-9, V-RXD-1 to V-RXD-11). -/
theorem witness_DefaultThresholdTable :
    (∀ us, Inv (at_ awaitBlk us 0)) ∧ (∀ us, Inv (at_ dataBlk us 0)) ∧
    ([0, 64, 65, 125, 126, 199, 200, 6000, 6001] : List U32).all (fun d => let s := at_ awaitBlk (1000 + d) 0; decide (
      s.cfg = Params.defaults .dht22 2000 ∧ s.blk.armed = true ∧ d = s.tsUs - s.blk.lastEdge)) = true ∧
    ([0, 9, 10, 60, 61, 109, 110, 154, 155, 6000, 6001] : List U32).all (fun d =>
      let s := at_ dataBlk (1190 + d) 0; decide (
      s.cfg = Params.defaults .dht22 2000 ∧ s.blk.armed = true ∧ d = s.tsUs - s.blk.lastEdge)) = true :=
  ⟨fun us => inv_of _ us _ [] awaitBlk_inv, fun us => inv_of _ us _ [] dataBlk_inv, by decide⟩

/-- The five causes, in the order of the statement's rows, and the one other operation that writes `status`. -/
theorem witness_ErrorStatusHasItsCause :
    (Inv (at_ awaitBlk 7001 0) ∧ Inv (at_ dataBlk 1200 0) ∧ Inv (at_ lastBitBlk 1268 0)) ∧
    [exec .edge (at_ awaitBlk 7001 0), exec .edge (at_ awaitBlk 1065 0), exec .edge (at_ dataBlk 1200 0),
        exec .edge (at_ dataBlk 1199 0), exec .edge (at_ lastBitBlk 1268 0)].map
          (see (fun t => (t.blk.state, t.blk.status))) =
      [some (.stopped, .isrTimeout), some (.stopped, .responseTimeout), some (.stopped, .dataTimeout),
        some (.stopped, .deltaGlitch), some (.stopped, .checksumError)] ∧
    see (fun t => t.blk.status) (exec .srst (at_ acquiredBlk 0 0)) = some .notStarted :=
  ⟨⟨inv_of _ _ _ [] awaitBlk_inv, inv_of _ _ _ [] dataBlk_inv, inv_of _ _ _ [] lastBitBlk_inv⟩, by decide⟩

theorem witness_AbortsArePrecise :
    (at_ dataBlk 1199 0).blk.state ≠ .stopped ∧
      see (fun t => (t.blk.state, t.blk.status)) (exec .edge (at_ dataBlk 1199 0)) = some (.stopped, .deltaGlitch) := by
  decide

/-- Each field changes under one of its owners. -/
theorem witness_OnlyOwnersWriteFields :
    see (fun t => (t.blk.state, t.blk.result, flagsByte t.blk, t.blk.lastAcq))
        (exec .start (at_ Block.reset 5 3000)) = some (.awaitingResponse, .acquiring, 0x19, 3000) ∧
      see (fun t => (t.blk.frame.b4, cursorByte t.blk, flagsByte t.blk, t.blk.status))
        (exec .edge (at_ lastBitBlk 1310 0)) = some (0x3B, 0x50, 0x12, .ok) ∧
      see (fun t => t.blk.lastEdge) (exec .release (at_ holdBlk 2000 0)) = some 2000 ∧
      see (·.busRdata) (exec (.rd 0x3) (at_ Block.reset 0 0)) = some 0xF9 := by decide

theorem witness_TransitionTable :
    Inv (at_ idleBlk 0 2999) ∧ Inv (at_ holdBlk 2000 0) ∧ Inv (at_ awaitBlk 1126 0) ∧ Inv (at_ lastBitBlk 1310 0) ∧
      Inv (at_ acquiredBlk 0 0) :=
  ⟨inv_of _ _ _ [] idleBlk_inv, inv_of _ _ _ [] holdBlk_inv, inv_of _ _ _ [] awaitBlk_inv,
    inv_of _ _ _ [] lastBitBlk_inv, inv_of _ _ _ [] acquiredBlk_inv⟩

/-- A register that an operation does change, for each operation that may. -/
theorem witness_RegisterViewFrame :
    see (fun t => regRead 0x4 t.blk) (exec .convAck (at_ acquiredBlk 0 0)) ≠ some (regRead 0x4 acquiredBlk) ∧
      see (fun t => regRead 0x4 t.blk) (exec .release (at_ holdBlk 2000 0)) ≠ some (regRead 0x4 holdBlk) ∧
      see (fun t => regRead 0xA t.blk) (exec .start (at_ acquiredBlk 0 3000)) ≠ some (regRead 0xA acquiredBlk) ∧
      see (fun t => regRead 0x2 t.blk) (exec .edge (at_ awaitBlk 1126 0)) ≠ some (regRead 0x2 awaitBlk) ∧
      see (fun t => regRead 0x1 t.blk) (exec .srst (at_ acquiredBlk 0 0)) ≠ some (regRead 0x1 acquiredBlk) := by decide

theorem witness_EveryOperationCompletes : BlockInv Block.reset ∧ BlockInv lastBitBlk :=
  ⟨by constructor <;> decide, lastBitBlk_inv⟩

theorem witness_StepKeepsInvariant :
    ∃ t, Inv (feeding (at_ lastBitBlk 0 0) [edgeInput 1310 0]) ∧
      step (feeding (at_ lastBitBlk 0 0) [edgeInput 1310 0]) = .next t ∧ t.blk.state = .acquired :=
  ⟨_, inv_of _ _ _ _ lastBitBlk_inv, rfl, by decide⟩

/-- Lines 1 to 4 of program P1. -/
theorem witness_ReachableStatesSatisfyR35 :
    see (fun t => (t.blk.state, t.blk.armed))
      (run 4
        { State.resetWith (Params.defaults .dht22 2000) with
          pending := [⟨.opw 0x0001, 1000000, 10000⟩, ⟨.opw 0x3000, 1001000, 10000⟩, ⟨.opw 0x2000, 1001030, 10000⟩,
            ⟨.opw 0x2000, 1001190, 10000⟩] }) = some (.receivingData, true) := by decide

theorem witness_ValidInputsRunSafely :
    let s := feeding (at_ lastBitBlk 0 0) [edgeInput 1310 0, ⟨.busRead 0x9, 0, 0⟩, ⟨.rstLevel true, 0, 0⟩];
    Inv s ∧ ∀ inp ∈ s.pending, inp.valid = true :=
  ⟨inv_of _ _ _ _ lastBitBlk_inv, by decide⟩

theorem witness_AcquiredFrameIsFrozen :
    let s := feeding (at_ acquiredBlk 0 0) [edgeInput 1400 0, ⟨.busWrite 0x0 0x02, 0, 0⟩, ⟨.busWrite 0x9 0x00, 0, 0⟩];
    Inv s ∧ s.rst = false ∧ regRead 0x2 s.blk = 0x03#8 ∧
      (∀ inp ∈ s.pending, inp.starts = false ∧ inp.resets = false) ∧ (nextOf (run 3 s)).isSome = true :=
  ⟨inv_of _ _ _ _ acquiredBlk_inv, by decide⟩

/-- The step with nothing pending, and a START at the end of the throttle interval. -/
theorem witness_StallLastsUntilEdgeOrReset :
    let s := feeding (at_ holdBlk 0 0) [⟨.busRead 0x4, 5, 6⟩, ⟨.opw 0x3000, 2000, 2000⟩];
    Inv s ∧ s.rst = false ∧ busy s.blk = true ∧ (∀ inp ∈ s.pending, inp.mayEdge = false ∧ inp.resets = false) ∧
      see (fun t => decide (t.cfg.throttleMs ≤ t.tsMs - t.blk.lastAcq)) (run 3 s) = some true :=
  ⟨inv_of _ _ _ _ holdBlk_inv, by decide⟩

/-- The deltas of a frame: 78 for a 0 bit, 120 for a 1 bit (program P1). -/
def deltasOf (f : Frame) : List U32 := (frameBits f).map (fun b => if b then 120 else 78)

/-- Programs P1 and P3: a frame that passes the checksum and one that does not. -/
theorem witness_FortyDataEdgesReceiveTheFrame :
    ∀ f ∈ ([⟨0x02, 0x8C, 0x00, 0xAD, 0x3B⟩, ⟨0x02, 0x8C, 0x00, 0xAD, 0x39⟩] : List Frame),
      let s := feeding (at_ dataBlk 1190 0) (edgeInputs 0 dataBlk.lastEdge (deltasOf f));
      s.rst = false ∧ s.blk.armed = true ∧ s.blk.state = .receivingData ∧ s.blk.byteCur = 0#3 ∧ s.blk.bitCur = 0#3 ∧
        (deltasOf f).map (classify s.cfg .receivingData) = (frameBits f).map EdgeClass.dataBit ∧
        s.pending = edgeInputs 0 s.blk.lastEdge (deltasOf f) ++ [] := by decide

theorem witness_SingleBitFlipFailsChecksum :
    (0 < 8 ∧ 7 < 8) ∧ (⟨0x02, 0x8C, 0x00, 0xAD, 0x3B⟩ : Frame).checksumOk = true := by decide

/-- The clauses with premises of their own, in each of their ways: for START with RELEASE a hold that is not zero, a busy
block and a throttled START; for START with EDGE a throttled START, a disarmed EDGE and one that leaves the block busy;
for RELEASE with EDGE a jitter ceiling that is not zero, a line not driven and a hold that is not over. -/
theorem witness_SimultaneousOperationsCommute :
    (Inv (at_ { dataBlk with lastAcq := 1000 } 1310 2999) ∧ Inv (at_ holdBlk 1999 5000) ∧ Inv (at_ dataBlk 1310 5000)) ∧
    (let s := at_ { dataBlk with lastAcq := 1000 } 1310 2999;
      s.rst = false ∧ 0#32 < s.cfg.holdUs ∧ busy s.blk = true ∧ 0#32 < s.cfg.tJitter ∧ s.blk.driveLow = false ∧
        s.blk.firstDone = true ∧ s.tsMs - s.blk.lastAcq < s.cfg.throttleMs) ∧
    (let s := at_ holdBlk 1999 5000;
      s.rst = false ∧ s.blk.armed = false ∧ s.tsUs - s.blk.holdStart < s.cfg.holdUs) ∧
    (let s := at_ dataBlk 1310 5000;
      s.rst = false ∧ ¬(s.blk.firstDone = true ∧ s.tsMs - s.blk.lastAcq < s.cfg.throttleMs) ∧
        see (fun t => busy t.blk) (exec .edge s) = some true) :=
  ⟨⟨inv_of _ _ _ [] (by constructor <;> decide), inv_of _ _ _ [] holdBlk_inv, inv_of _ _ _ [] dataBlk_inv⟩, by decide⟩

theorem witness_GetterProtocol :
    (∀ b ∈ [idleBlk, awaitBlk, acquiredBlk], (at_ b 0 0).rst = false) ∧
      (at_ idleBlk 0 0).blk.state = .stopped ∧ busy (at_ awaitBlk 0 0).blk = true ∧
      ((at_ acquiredBlk 0 0).blk.state = .acquired ∧ (at_ acquiredBlk 0 0).blk.convPending = true) ∧
      ((at_ { acquiredBlk with convPending := false } 0 0).blk.state = .acquired ∧
        (at_ { acquiredBlk with convPending := false } 0 0).blk.convPending = false) :=
  ⟨fun _ _ => rfl, by decide⟩

theorem witness_CachedAcquireWaitEndsAtOnce :
    let s := at_ { idleBlk with status := .isrTimeout } 0 2999;
    s.rst = false ∧ busy s.blk = false ∧ s.blk.firstDone = true ∧ s.tsMs - s.blk.lastAcq < s.cfg.throttleMs := by decide

/-- The last bit of a frame comes between the second poll and the third; and an idle block whose START triggers, with a
read and a release before it. -/
theorem witness_AcquireWaitFollowsTheDecoder :
    (Inv (feeding (at_ lastBitBlk 0 0) [edgeInput 1310 0]) ∧
      (acquireWait [0, 0, 1] 0 (feeding (at_ lastBitBlk 0 0) [edgeInput 1310 0])).map (·.1) = some 0x01) ∧
    (let s := feeding (at_ idleBlk 0 3000) [⟨.busRead 0x4, 5, 3000⟩, ⟨.opw 0x3000, 2000, 3002⟩];
      Inv s ∧ s.rst = false ∧ ¬(s.blk.firstDone = true ∧ s.tsMs - s.blk.lastAcq < s.cfg.throttleMs) ∧
        (∀ inp ∈ s.pending, inp.mayEdge = false ∧ inp.resets = false)) ∧
    (let s := at_ dataBlk 0 5000;
      Inv s ∧ s.rst = false ∧ busy s.blk = true ∧ ∀ inp ∈ s.pending, inp.mayEdge = false ∧ inp.resets = false) :=
  ⟨⟨inv_of _ _ _ _ lastBitBlk_inv, by decide⟩, ⟨inv_of _ _ _ _ idleBlk_inv, by decide⟩,
    ⟨inv_of _ _ _ [] dataBlk_inv, by decide⟩⟩

/-- An EDGE, a read and an ignored write come between the getter's own operations. -/
theorem witness_GetterReadsOneFrame :
    let s := feeding (at_ acquiredBlk 0 0) [edgeInput 1400 0, ⟨.busRead 0x5, 0, 0⟩, ⟨.busWrite 0x9 0x00, 0, 0⟩];
    Inv s ∧ s.rst = false ∧ s.blk.state = .acquired ∧ s.blk.convPending = true ∧
      (∀ inp ∈ s.pending, inp.valid = true ∧ inp.starts = false ∧ inp.resets = false ∧
        inp.stim.instr ≠ some .convAck) :=
  ⟨inv_of _ _ _ _ acquiredBlk_inv, by decide⟩

/-- An EDGE at the glitch floor's side of the bound ends the acquisition; a START past the throttle interval. -/
theorem witness_StartEdgeOrderCanMatter :
    Inv (at_ dataBlk 1199 2000) ∧
    (let s := at_ dataBlk 1199 2000;
      ¬(s.blk.firstDone = true ∧ s.tsMs - s.blk.lastAcq < s.cfg.throttleMs) ∧ s.blk.armed = true ∧
        see (fun t => busy t.blk) (exec .edge s) = some false) :=
  ⟨inv_of _ _ _ [] dataBlk_inv, by decide⟩

/-- With this configuration. -/
def withParams (s : State) (p : Params) : State := { s with cfg := p }

/-- Both clauses with premises: RELEASE at the end of the hold, and a trigger with a hold of zero. -/
theorem witness_ReleaseEdgeOrderCanMatter :
    (Inv (withParams (at_ holdBlk 2000 0) { Params.defaults .dht22 2000 with tJitter := 0 }) ∧
      (let s := withParams (at_ holdBlk 2000 0) { Params.defaults .dht22 2000 with tJitter := 0 };
        s.cfg.Legal ∧ s.cfg.tJitter = 0#32 ∧ s.blk.driveLow = true ∧ s.cfg.holdUs ≤ s.tsUs - s.blk.holdStart)) ∧
    (Inv (withParams (at_ idleBlk 0 3000) { Params.defaults .dht22 2000 with holdUs := 0 }) ∧
      (let s := withParams (at_ idleBlk 0 3000) { Params.defaults .dht22 2000 with holdUs := 0 };
        s.cfg.holdUs = 0#32 ∧ busy s.blk = false ∧
          ¬(s.blk.firstDone = true ∧ s.tsMs - s.blk.lastAcq < s.cfg.throttleMs))) :=
  ⟨⟨⟨holdBlk_inv, nofun⟩, by decide⟩, ⟨⟨idleBlk_inv, nofun⟩, by decide⟩⟩

/-- The EDGE that completes the frame of program P1. -/
theorem witness_RacesWithAnEdge :
    lastBitBlk.state ≠ .acquired ∧
      see (fun t => t.blk.state) (exec .edge (at_ lastBitBlk 1310 0)) = some .acquired := by decide

end Sys2Proof.Tests
end

section
/-! PROOF. Forty data edges receive a frame (O49): what one data edge does to the record, and the state of the block
after each of the forty. -/

namespace Sys2Proof.Machine

/-! ### The frame, byte by byte and bit by bit -/

/-- Byte `j` of a frame; the last one where `j` is no index of a byte. -/
def Frame.byteAt (f : Frame) : Nat → Byte
  | 0 => f.b0
  | 1 => f.b1
  | 2 => f.b2
  | 3 => f.b3
  | _ => f.b4

theorem Frame.eq_of_byteAt {f g : Frame} (h : ∀ j < 5, f.byteAt j = g.byteAt j) : f = g := by
  have h0 := h 0 (by decide)
  have h1 := h 1 (by decide)
  have h2 := h 2 (by decide)
  have h3 := h 3 (by decide)
  have h4 := h 4 (by decide)
  cases f; cases g
  simp_all only [Frame.byteAt]

/-- A frame with byte `i` changed exists where there is such a byte, and no other byte changes. -/
theorem Frame.exists_modify (f : Frame) {i : BitVec 3} (hi : i.toNat < 5) (g : Byte → Byte) :
    ∃ f', f.modify i g = some f' ∧
      ∀ j < 5, f'.byteAt j = if j = i.toNat then g (f.byteAt j) else f.byteAt j := by
  unfold Frame.modify
  generalize i.toNat = n at hi
  match n, hi with
  | 0, _ | 1, _ | 2, _ | 3, _ | 4, _ =>
    refine ⟨_, rfl, fun j hj => ?_⟩
    match j, hj with
    | 0, _ | 1, _ | 2, _ | 3, _ | 4, _ => rfl

/-- The forty bits of a frame: byte `k / 8`, most significant bit first (R55, R56). -/
theorem frameBits_getElem? (f : Frame) {k : Nat} (hk : k < 40) :
    (frameBits f)[k]? = some ((f.byteAt (k / 8)).getLsbD (7 - k % 8)) := by
  have h : frameBits f = (List.range 40).map (fun k => (f.byteAt (k / 8)).getLsbD (7 - k % 8)) := rfl
  rw [h, List.getElem?_map, List.getElem?_range hk]
  rfl

theorem shiftBit_getLsbD_zero (bit : Bool) (x : Byte) : (shiftBit bit x).getLsbD 0 = bit := by
  simp [shiftBit]

theorem shiftBit_getLsbD_succ (bit : Bool) (x : Byte) {n : Nat} (hn : n + 1 < 8) :
    (shiftBit bit x).getLsbD (n + 1) = x.getLsbD n := by
  have h0 : n < 8 := by omega
  simp [shiftBit, hn, BitVec.getLsbD_eq_getElem h0]

/-! ### The bits received so far -/

/-- How many of the first `k` bits of a frame belong to byte `j`. -/
def bitsOfByte (k j : Nat) : Nat := min 8 (k - 8 * j)

/-- The byte `y` ends in the first `m` bits of `x`. -/
def EndsInBits (x : Byte) (m : Nat) (y : Byte) : Prop :=
  ∀ n < m, y.getLsbD n = x.getLsbD (8 - m + n)

/-- The frame `g` holds the first `k` bits of `f`: each byte ends in those that belong to it. -/
def Frame.HoldsBits (g f : Frame) (k : Nat) : Prop :=
  ∀ j < 5, EndsInBits (f.byteAt j) (bitsOfByte k j) (g.byteAt j)

theorem Frame.holdsBits_zero (g f : Frame) : g.HoldsBits f 0 := by
  intro j _ n hn
  simp [bitsOfByte] at hn

/-- A frame that holds all forty bits of `f` is `f`. -/
theorem Frame.HoldsBits.eq {g f : Frame} (h : g.HoldsBits f 40) : g = f := by
  refine Frame.eq_of_byteAt fun j hj => BitVec.eq_of_getLsbD_eq fun n hn => ?_
  have hm : bitsOfByte 40 j = 8 := by unfold bitsOfByte; omega
  have := h j hj
  rw [hm] at this
  simpa using this n hn

/-- A shift of the next bit of `x` (R160). -/
theorem EndsInBits.shiftBit {x y : Byte} {m : Nat} (hm : m < 8) (h : EndsInBits x m y) :
    EndsInBits x (m + 1) (shiftBit (x.getLsbD (7 - m)) y) := by
  intro n hn
  cases n with
  | zero =>
    rw [shiftBit_getLsbD_zero]
    congr 1; omega
  | succ n =>
    rw [shiftBit_getLsbD_succ _ _ (by omega), h n (by omega)]
    congr 1; omega

/-- Bit `k` of `f` shifted into byte `k / 8` of a frame that holds the bits before it. -/
theorem Frame.HoldsBits.shift {g f g' : Frame} {k : Nat} (h : g.HoldsBits f k)
    (hg' : ∀ j < 5, g'.byteAt j =
      if j = k / 8 then Machine.shiftBit ((f.byteAt (k / 8)).getLsbD (7 - k % 8)) (g.byteAt j) else g.byteAt j) :
    g'.HoldsBits f (k + 1) := by
  intro j hj
  rw [hg' j hj]
  have hb := h j hj
  by_cases hjk : j = k / 8
  · have hnow : bitsOfByte k j = k % 8 := by unfold bitsOfByte; omega
    have hnext : bitsOfByte (k + 1) j = k % 8 + 1 := by unfold bitsOfByte; omega
    rw [hnow] at hb
    rw [if_pos hjk, hnext, ← hjk]
    exact hb.shiftBit (by omega)
  · have hsame : bitsOfByte (k + 1) j = bitsOfByte k j := by unfold bitsOfByte; omega
    rw [if_neg hjk, hsame]
    exact hb

/-! ### The cursors -/

/-- The cursors point at bit `k` of the frame (R26). -/
structure CursorAt (k : Nat) (b : Block) : Prop where
  byteCur : b.byteCur.toNat = k / 8
  bitCur : b.bitCur.toNat = k % 8

/-- Before the last bit of the frame the cursors move on by one bit (R161). -/
theorem advanceCursor_of_lt {k : Nat} {b : Block} (hc : CursorAt k b) (hk : k < 39) :
    ∃ bit byte, advanceCursor b = { b with bitCur := bit, byteCur := byte } ∧
      CursorAt (k + 1) (advanceCursor b) := by
  obtain ⟨hbyte, hbit⟩ := hc
  rcases advanceCursor_cases b with ⟨h, he⟩ | ⟨h, _, he⟩ | ⟨h, h5, _⟩
  · refine ⟨_, _, he, ?_⟩
    rw [he]
    constructor <;> dsimp only <;> bv_omega
  · refine ⟨_, _, he, ?_⟩
    rw [he]
    constructor <;> dsimp only <;> bv_omega
  · exfalso
    bv_omega

/-- The last bit completes the frame (R161, R162). -/
theorem advanceCursor_of_last {b : Block} (hc : CursorAt 39 b) :
    advanceCursor b = completeFrame { b with bitCur := 0, byteCur := 5 } := by
  obtain ⟨hbyte, hbit⟩ := hc
  have hlast : b.byteCur + 1 = 5#3 := by bv_omega
  rcases advanceCursor_cases b with ⟨h, _⟩ | ⟨_, h, _⟩ | ⟨_, _, he⟩
  · exfalso
    bv_omega
  · exact absurd hlast h
  · rw [he, hlast]
    rfl

/-! ### One data edge -/

/-- An EDGE word that arrives with `rst` released runs EDGE at its time (R70, R74). -/
theorem step_edgeInput {s : State} {us ms : U32} {q : List Input} (hrst : s.rst = false)
    (hp : s.pending = edgeInput us ms :: q) :
    step s = execEdge ((s.withPending q).withTime us ms) := by
  have hd : decode (encode .edge) = .ok .edge := rfl
  rw [step_eq, stepInput_cons hp]
  simp only [edgeInput, accept, hd]
  exact perform_of_running .edge (s := (s.withPending q).withTime us ms) hrst

/-- An armed EDGE whose delta is a data bit shifts it in, and moves the reference (R134, R138, R139). -/
theorem execEdge_dataBit {s : State} {bit : Bool} {g : Frame} (ha : s.blk.armed = true)
    (hst : s.blk.state = .receivingData)
    (hc : classify s.cfg .receivingData (s.tsUs - s.blk.lastEdge) = .dataBit bit)
    (hg : s.blk.frame.modify s.blk.byteCur (shiftBit bit) = some g) :
    execEdge s = .next (s.withBlk (advanceCursor { s.blk with frame := g, lastEdge := s.tsUs })) := by
  refine execEdge_of_applyClass ha ?_
  rw [State.edgeClass, hst, edgeDelta, elapsed, hc]
  exact (shiftIn_eq_some_iff ..).2 ⟨g, hg, rfl⟩

/-! ### The run of forty edges -/

/-- The state `u` of the machine when `k` of the edges that encode `f` have arrived since `s`. -/
structure Receiving (s : State) (f : Frame) (deltas : List U32) (ms : U32) (rest : List Input) (k : Nat)
    (u : State) : Prop where
  running : u.rst = false
  cfg : u.cfg = s.cfg
  armed : u.blk.armed = true
  state : u.blk.state = .receivingData
  convPending : u.blk.convPending = s.blk.convPending
  cursor : CursorAt k u.blk
  frame : u.blk.frame.HoldsBits f k
  pending : u.pending = edgeInputs ms u.blk.lastEdge (deltas.drop k) ++ rest

/-- Each of the forty deltas is classified as its bit of the frame. -/
theorem EncodeBits.classify_delta {p : Params} {f : Frame} {deltas : List U32} (h : EncodeBits p (frameBits f) deltas)
    {k : Nat} (hk : k < 40) :
    ∃ d, deltas.drop k = d :: deltas.drop (k + 1) ∧
      classify p .receivingData d = .dataBit ((f.byteAt (k / 8)).getLsbD (7 - k % 8)) := by
  have hbit := congrArg (·[k]?) h
  simp only [List.getElem?_map, frameBits_getElem? f hk, Option.map_some, Option.map_eq_some_iff] at hbit
  obtain ⟨d, hd, hc⟩ := hbit
  obtain ⟨hlt, hd⟩ := List.getElem?_eq_some_iff.1 hd
  exact ⟨d, by rw [List.drop_eq_getElem_cons hlt, hd], hc⟩

section Run
variable {s u : State} {f : Frame} {deltas : List U32} {ms : U32} {rest : List Input} {k : Nat}

/-- The next data edge: bit `k` enters the frame, the reference moves to the edge, and the cursors advance. -/
theorem Receiving.step_eq (he : EncodeBits s.cfg (frameBits f) deltas) (hk : k < 40)
    (h : Receiving s f deltas ms rest k u) :
    ∃ g us, g.HoldsBits f (k + 1) ∧
      step u = .next (((u.withPending (edgeInputs ms us (deltas.drop (k + 1)) ++ rest)).withTime us ms).withBlk
        (advanceCursor { u.blk with frame := g, lastEdge := us })) := by
  obtain ⟨d, hdrop, hclass⟩ := he.classify_delta hk
  have hbyte : u.blk.byteCur.toNat = k / 8 := h.cursor.byteCur
  obtain ⟨g, hg, hbytes⟩ := u.blk.frame.exists_modify (i := u.blk.byteCur) (by omega)
    (shiftBit ((f.byteAt (k / 8)).getLsbD (7 - k % 8)))
  rw [hbyte] at hbytes
  have hp := h.pending
  rw [hdrop] at hp
  have hdelta : u.blk.lastEdge + d - u.blk.lastEdge = d := by rw [BitVec.add_comm, BitVec.add_sub_cancel]
  refine ⟨g, u.blk.lastEdge + d, h.frame.shift hbytes, ?_⟩
  rw [step_edgeInput h.running hp]
  exact execEdge_dataBit h.armed h.state (by simpa [h.cfg, hdelta] using hclass) hg

/-- Before the fortieth edge the block goes on receiving. -/
theorem Receiving.succ (he : EncodeBits s.cfg (frameBits f) deltas) (hk : k < 39)
    (h : Receiving s f deltas ms rest k u) : ∃ v, step u = .next v ∧ Receiving s f deltas ms rest (k + 1) v := by
  obtain ⟨g, us, hg, hstep⟩ := h.step_eq he (by omega)
  obtain ⟨bit, byte, hadv, hcur⟩ := advanceCursor_of_lt (b := { u.blk with frame := g, lastEdge := us })
    ⟨h.cursor.byteCur, h.cursor.bitCur⟩ hk
  refine ⟨_, hstep, ?_⟩
  rw [hadv] at hcur ⊢
  exact ⟨h.running, h.cfg, h.armed, h.state, h.convPending, hcur, hg, rfl⟩

/-- A run of one more step, at its end. -/
theorem run_succ_last {n : Nat} {s t u : State} (hrun : run n s = .next t) (hstep : step t = .next u) :
    run (n + 1) s = .next u := by
  induction n generalizing s with
  | zero =>
    cases hrun
    exact (run_succ ..).2 ⟨u, hstep, rfl⟩
  | succ n ih =>
    obtain ⟨v, hv, hrun⟩ := (run_succ ..).1 hrun
    exact (run_succ ..).2 ⟨v, hv, ih hrun⟩

/-- Every run of fewer than forty of the edges leaves the block receiving. -/
theorem Receiving.run (he : EncodeBits s.cfg (frameBits f) deltas) (h : Receiving s f deltas ms rest 0 s) :
    ∀ k < 40, ∃ u, Machine.run k s = .next u ∧ Receiving s f deltas ms rest k u
  | 0, _ => ⟨s, rfl, h⟩
  | k + 1, hk => by
    obtain ⟨u, hrun, hu⟩ := Receiving.run he h k (by omega)
    obtain ⟨v, hstep, hv⟩ := hu.succ he (by omega)
    exact ⟨v, run_succ_last hrun hstep, hv⟩

/-- The fortieth edge completes the frame `f` (R162). -/
theorem Receiving.last (he : EncodeBits s.cfg (frameBits f) deltas) (h : Receiving s f deltas ms rest 39 u) :
    ∃ t us, step u = .next t ∧ t.pending = rest ∧
      t.blk = completeFrame { u.blk with frame := f, lastEdge := us, bitCur := 0, byteCur := 5 } := by
  obtain ⟨g, us, hg, hstep⟩ := h.step_eq he (by decide)
  obtain rfl := hg.eq
  have hlen : deltas.length = 40 := by simpa [frameBits, byteBits] using congrArg List.length he
  have hnone : deltas.drop 40 = [] := List.drop_eq_nil_of_le (by omega)
  rw [advanceCursor_of_last (b := { u.blk with frame := g, lastEdge := us }) ⟨h.cursor.byteCur, h.cursor.bitCur⟩,
    hnone] at hstep
  exact ⟨_, us, hstep, rfl, rfl⟩

end Run

/-- What the validator leaves: edges detached, and the frame accepted exactly if its checksum matches (R163 to R165). -/
theorem completeFrame_spec (b : Block) :
    (completeFrame b).frame = b.frame ∧ (completeFrame b).byteCur = b.byteCur ∧
      (completeFrame b).bitCur = b.bitCur ∧ (completeFrame b).armed = false ∧
      (b.frame.b4 = b.frame.sum → (completeFrame b).state = .acquired ∧ (completeFrame b).status = .ok ∧
        (completeFrame b).convPending = true) ∧
      (b.frame.b4 ≠ b.frame.sum → (completeFrame b).state = .stopped ∧
        (completeFrame b).status = .checksumError ∧ (completeFrame b).convPending = b.convPending) := by
  rcases completeFrame_cases b with ⟨hsum, h⟩ | ⟨hsum, h⟩ <;> rw [h] <;> simp [hsum]

/-- Settles O49: the state after `k` edges is `Receiving … k`, by induction on `k`, and the fortieth completes `f`. -/
theorem fortyDataEdgesReceiveTheFrame : Obligations.FortyDataEdgesReceiveTheFrame := by
  intro s f deltas ms rest hrst harmed hstate hbyte hbit he hp
  have h0 : Receiving s f deltas ms rest 0 s :=
    ⟨hrst, rfl, harmed, hstate, rfl, ⟨by rw [hbyte]; rfl, by rw [hbit]; rfl⟩, Frame.holdsBits_zero _ _, hp⟩
  refine ⟨fun k hk => ?_, ?_⟩
  · obtain ⟨u, hrun, hu⟩ := h0.run he k hk
    exact ⟨u, hrun, hu.state⟩
  · obtain ⟨u, hrun, hu⟩ := h0.run he 39 (by decide)
    obtain ⟨t, us, hstep, hrest, hblk⟩ := hu.last he
    obtain ⟨hframe, hbyte', hbit', harmed', haccept, hreject⟩ :=
      completeFrame_spec { u.blk with frame := f, lastEdge := us, bitCur := 0, byteCur := 5 }
    refine ⟨t, run_succ_last hrun hstep, hrest, ?_⟩
    rw [hblk]
    exact ⟨hframe, hbyte', hbit', harmed', haccept, fun hne => hu.convPending ▸ hreject hne⟩

end Sys2Proof.Machine
end

section
/-! PROOF. Which operation writes which field (O39), from `exec_cases` and the frame of an armed EDGE. -/

namespace Sys2Proof.Machine

/-- What an armed EDGE may write (R41): not the fields of START and of the trigger hold; `armed` to 0 only, and
`convPending` to 1 only. -/
structure EdgeFrame (b c : Block) : Prop where
  result : c.result = b.result
  driveLow : c.driveLow = b.driveLow
  firstDone : c.firstDone = b.firstDone
  holdStart : c.holdStart = b.holdStart
  lastAcq : c.lastAcq = b.lastAcq
  armed : c.armed ≠ b.armed → c.armed = false
  convPending : c.convPending ≠ b.convPending → c.convPending = true

theorem EdgeFrame.refl (b : Block) : EdgeFrame b b :=
  ⟨rfl, rfl, rfl, rfl, rfl, fun h => absurd rfl h, fun h => absurd rfl h⟩

theorem abort_edgeFrame (code : Status) (us : U32) (b : Block) : EdgeFrame b (abort code (setLastEdge us b)) :=
  ⟨rfl, rfl, rfl, rfl, rfl, fun _ => rfl, fun h => absurd rfl h⟩

theorem completeFrame_edgeFrame (b : Block) : EdgeFrame b (completeFrame b) := by
  rcases completeFrame_cases b with ⟨_, h⟩ | ⟨_, h⟩ <;> rw [h]
  · exact ⟨rfl, rfl, rfl, rfl, rfl, fun _ => rfl, fun _ => rfl⟩
  · exact ⟨rfl, rfl, rfl, rfl, rfl, fun _ => rfl, fun h => absurd rfl h⟩

theorem advanceCursor_edgeFrame (b : Block) : EdgeFrame b (advanceCursor b) := by
  rcases advanceCursor_cases b with ⟨_, h⟩ | ⟨_, _, h⟩ | ⟨_, _, h⟩ <;> rw [h]
  · exact { EdgeFrame.refl b with }
  · exact { EdgeFrame.refl b with }
  · exact { completeFrame_edgeFrame { b with bitCur := 0, byteCur := b.byteCur + 1 } with }

theorem applyClass_edgeFrame {c : EdgeClass} {us : U32} {b b' : Block} (h : applyClass c us b = some b') :
    EdgeFrame b b' := by
  cases c with
  | dataBit one =>
    obtain ⟨f, _, rfl⟩ := (shiftIn_eq_some_iff ..).1 h
    exact { advanceCursor_edgeFrame { setLastEdge us b with frame := f } with }
  | response => cases h; exact { EdgeFrame.refl b with }
  | jitter => cases h; exact .refl b
  | terminal => cases h; exact .refl b
  | stall => cases h; exact abort_edgeFrame ..
  | responseTimeout => cases h; exact abort_edgeFrame ..
  | glitch => cases h; exact abort_edgeFrame ..
  | dataTimeout => cases h; exact abort_edgeFrame ..

/-- Settles O39: RD writes `bus_rdata` alone, and every other operation replaces the record as its effect says. -/
theorem onlyOwnersWriteFields : Obligations.OnlyOwnersWriteFields := by
  intro i s t h
  rcases exec_cases h with ⟨a, rfl, rfl⟩ | ⟨b, rfl, heffect⟩
  · simp
  · cases i with
    | nop => cases heffect; simp
    | cmdRsvd d => cases heffect; simp
    | wrNoCmd a d => cases heffect; simp
    | rd a => cases heffect
    | convAck => cases heffect; simp
    | srst => simp
    | start =>
      cases heffect
      rcases startBlock_cases s.cfg s.tsUs s.tsMs s.blk with ⟨_, hb⟩ | ⟨_, _, hb⟩ | ⟨_, _, hb⟩ <;> simp [hb]
    | release =>
      cases heffect
      by_cases he : releaseEnabled s.cfg s.tsUs s.blk = true <;> simp [he]
    | edge =>
      have hframe : EdgeFrame s.blk b := by
        rcases heffect with ⟨_, rfl⟩ | ⟨_, hb⟩
        · exact .refl _
        · exact applyClass_edgeFrame hb
      obtain ⟨hresult, hdrive, hfirst, hhold, hacq, harmed, hconv⟩ := hframe
      simpa [hresult, hdrive, hfirst, hhold, hacq] using And.intro harmed hconv

end Sys2Proof.Machine
end

section
/-! PROOF. The configurations that a block is made with (O4). -/

namespace Sys2Proof.Machine

theorem instantiate_eq_some_iff (p : Params) (s : State) :
    State.instantiate p = some s ↔ p.Legal ∧ s = State.resetWith p := by
  unfold State.instantiate
  split
  case isTrue h => exact ⟨fun e => ⟨h, (Option.some.inj e).symm⟩, fun ⟨_, e⟩ => congrArg some e.symm⟩
  case isFalse h => exact ⟨nofun, fun ⟨hlegal, _⟩ => absurd hlegal h⟩

theorem Variant.ne_dht11_iff (v : Variant) : v ≠ .dht11 ↔ v = .dht21 ∨ v = .dht22 := by
  cases v <;> decide

/-- The defaults of R8 meet R9. -/
theorem Params.defaults_legal (v : Variant) (thr : U32) : (Params.defaults v thr).Legal := by
  have hthresholds : (Params.defaults v thr).ThresholdsLegal := by
    simp [Params.ThresholdsLegal, Params.defaults]
  have hhold : (Params.defaults v thr).HoldLegal := by
    cases v <;> simp [Params.HoldLegal, Params.defaults]
  exact ⟨hthresholds, hhold⟩

/-- Settles O4: R9's bounds, with the variants other than the 11-family written out. -/
theorem instantiateOnlyLegalConfigurations : Obligations.InstantiateOnlyLegalConfigurations := by
  refine ⟨fun p s => ?_, fun v thr => ?_⟩
  · rw [instantiate_eq_some_iff, ← Variant.ne_dht11_iff]
    simp only [and_assoc]
  · exact (instantiate_eq_some_iff _ _).2 ⟨Params.defaults_legal v thr, rfl⟩

end Sys2Proof.Machine
end

section
/-! PROOF. The invariant (O42 to O46): which named operations keep it, that every operation completes from it, and what
steps and runs make of it. -/

namespace Sys2Proof.Machine

/-! ### Bits not yet received -/

theorem forall_byte_index {P : Nat → Prop} : (∀ j < 5, P j) ↔ P 0 ∧ P 1 ∧ P 2 ∧ P 3 ∧ P 4 := by
  simp only [Nat.forall_lt_succ_right, Nat.not_lt_zero, false_imp_iff, forall_const, true_and, and_assoc]

/-- `partialAt` byte by byte: the current byte is below `2^bitCur`, and the bytes after it are zero. -/
theorem Frame.partialAt_iff (f : Frame) (byteCur bitCur : BitVec 3) :
    f.partialAt byteCur bitCur = true ↔ ∀ j < 5,
      (j = byteCur.toNat → (f.byteAt j).toNat < 2 ^ bitCur.toNat) ∧ (byteCur.toNat < j → f.byteAt j = 0) := by
  unfold Frame.partialAt
  generalize byteCur.toNat = i
  match i with
  | 0 | 1 | 2 | 3 | 4 => rw [forall_byte_index]; simp [Frame.byteAt]
  | i + 5 => exact ⟨fun _ j hj => ⟨fun h => absurd h (by omega), fun h => absurd h (by omega)⟩, fun _ => rfl⟩

theorem Frame.partialAt_zero : Frame.zero.partialAt 0#3 0#3 = true := by decide

/-- What a changed frame is at each index of a byte. -/
theorem Frame.byteAt_of_modify {f f' : Frame} {i : BitVec 3} {g : Byte → Byte} (h : f.modify i g = some f') :
    ∀ j < 5, f'.byteAt j = if j = i.toNat then g (f.byteAt j) else f.byteAt j := by
  have hi : ¬ 5#3 ≤ i := fun hi => by simp [(Frame.modify_eq_none_iff f i g).2 hi] at h
  obtain ⟨f'', hf'', hbytes⟩ := f.exists_modify (i := i) (by bv_omega) g
  rw [h] at hf''
  cases hf''
  exact hbytes

theorem shiftBit_lt {x : Byte} {k : Nat} (bit : Bool) (h : x.toNat < 2 ^ k) :
    (shiftBit bit x).toNat < 2 ^ (k + 1) := by
  have hbit := bit.toNat_le
  rw [shiftBit_toNat, Nat.pow_succ]
  have hmod := Nat.mod_le (2 * x.toNat + bit.toNat) 256
  omega

section Shift
variable {f g : Frame} {byteCur bitCur : BitVec 3} {bit : Bool}

/-- A bit received into a byte that is not full yet. -/
theorem Frame.partialAt_shift (h : f.partialAt byteCur bitCur = true) (hbit : bitCur < 7#3)
    (hg : f.modify byteCur (shiftBit bit) = some g) : g.partialAt byteCur (bitCur + 1) = true := by
  rw [Frame.partialAt_iff] at h ⊢
  have hnext : (bitCur + 1).toNat = bitCur.toNat + 1 := by bv_omega
  intro j hj
  obtain ⟨hcur, hlater⟩ := h j hj
  rw [Frame.byteAt_of_modify hg j hj, hnext]
  by_cases hji : j = byteCur.toNat
  · rw [if_pos hji]
    exact ⟨fun _ => shiftBit_lt bit (hcur hji), fun hlt => by omega⟩
  · rw [if_neg hji]
    exact ⟨fun e => absurd e hji, hlater⟩

/-- The last bit of a byte: the cursor moves to the next byte, which is still zero. -/
theorem Frame.partialAt_nextByte (h : f.partialAt byteCur bitCur = true) (hbyte : byteCur ≤ 4#3)
    (hg : f.modify byteCur (shiftBit bit) = some g) : g.partialAt (byteCur + 1) 0#3 = true := by
  rw [Frame.partialAt_iff] at h ⊢
  have hnext : (byteCur + 1).toNat = byteCur.toNat + 1 := by bv_omega
  intro j hj
  obtain ⟨-, hlater⟩ := h j hj
  rw [Frame.byteAt_of_modify hg j hj, hnext]
  have hzero : byteCur.toNat < j → (if j = byteCur.toNat then shiftBit bit (f.byteAt j) else f.byteAt j) = 0 :=
    fun hlt => by rw [if_neg (by omega), hlater hlt]
  exact ⟨fun e => by simp [hzero (by omega)], fun hlt => hzero (by omega)⟩

end Shift

/-! ### The named operations keep the invariant -/

/-- A record in Stopped meets the invariant when its outputs are inactive and its cursors and status are those R26 and
R23 allow. -/
theorem blockInv_of_stopped {b : Block} (hstate : b.state = .stopped) (harmed : b.armed = false)
    (hdrive : b.driveLow = false) (hbound : b.byteCur ≤ 5#3) (hcomplete : b.byteCur = 5#3 → b.bitCur = 0#3)
    (hstatus : b.status ≠ .alreadyAcquiring) : BlockInv b := by
  have hbusy : busy b = false := (busy_eq_false_iff b).2 (.inl hstate)
  constructor <;> simp_all

theorem blockInv_reset : BlockInv Block.reset :=
  blockInv_of_stopped rfl rfl rfl (by decide) (by decide) (by decide)

section
variable {b c : Block}

theorem BlockInv.setResult (h : BlockInv b) (r : StartResult) : BlockInv (setResult r b) := { h with }

theorem BlockInv.ackConversion (h : BlockInv b) : BlockInv (ackConversion b) := { h with }

theorem BlockInv.setLastEdge (h : BlockInv b) (us : U32) : BlockInv (setLastEdge us b) := { h with }

/-- START's trigger comes only while the block is not busy, so with the edge interrupt off (R101, R35 I1). -/
theorem BlockInv.trigger (h : BlockInv b) (hbusy : busy b = false) (us ms : U32) : BlockInv (trigger us ms b) := by
  have harmed : b.armed = false :=
    Bool.eq_false_iff.2 fun ha => absurd (h.armedBusy ha).1 (by simp [hbusy])
  have hstatus := h.statusWritten
  constructor <;> simp_all

/-- RELEASE comes only while the line is driven low, so while the block waits for the response (R105, R35 I2). -/
theorem BlockInv.releaseLine (h : BlockInv b) (hdrive : b.driveLow = true) (us : U32) :
    BlockInv (releaseLine us b) := by
  obtain ⟨hstate, -⟩ := h.driveLowAwaiting hdrive
  have hbusy : busy (Machine.releaseLine us b) = true := (busy_eq_true_iff _).2 (.inl hstate)
  exact { h with
    armedBusy := fun _ => ⟨hbusy, rfl⟩
    driveLowAwaiting := nofun
    busyPhase := fun _ => rfl }

/-- An abort comes only while edges are processed, so with the line released (R203, R35 I1). -/
theorem BlockInv.abort (h : BlockInv b) (harmed : b.armed = true) {code : Status} (hcode : code ≠ .alreadyAcquiring) :
    BlockInv (abort code b) :=
  blockInv_of_stopped rfl rfl (h.armedBusy harmed).2 h.cursorBound (fun h5 => (h.completeCursor h5).1) hcode

/-- The response marker comes while the frame is zero and the cursors are at its start (R136). -/
theorem BlockInv.beginData (h : BlockInv b) (harmed : b.armed = true) (hstate : b.state = .awaitingResponse) :
    BlockInv (beginData b) := by
  obtain ⟨-, hdrive⟩ := h.armedBusy harmed
  obtain ⟨hbyte, hbit⟩ := h.awaitingCursor hstate
  have hframe := h.awaitingFrame hstate
  have hbusy : busy b = busy (Machine.beginData b) :=
    ((busy_eq_true_iff b).2 (.inl hstate)).trans ((busy_eq_true_iff _).2 (.inr rfl)).symm
  exact {
    armedBusy := fun ha => hbusy ▸ h.armedBusy ha
    driveLowAwaiting := fun hd => by simp [hdrive] at hd
    busyPhase := hbusy ▸ h.busyPhase
    receivingCursor := fun _ => by simp [hbyte]
    awaitingCursor := nofun
    acquiredFrame := nofun
    completeCursor := fun h5 => by simp [hbyte] at h5
    cursorBound := h.cursorBound
    busyFirst := hbusy ▸ h.busyFirst
    statusWritten := h.statusWritten
    awaitingFrame := nofun
    partialFrame := fun _ => by simpa [hframe, hbyte, hbit] using Frame.partialAt_zero }

/-- A completed frame is accepted or rejected, with the line released either way (R162 to R165). -/
theorem blockInv_completeFrame (hdrive : b.driveLow = false) (hbyte : b.byteCur = 5#3) (hbit : b.bitCur = 0#3) :
    BlockInv (completeFrame b) := by
  rcases completeFrame_cases b with ⟨hsum, he⟩ | ⟨-, he⟩ <;> rw [he]
  · have hbusy : busy { b with armed := false, status := .ok, state := .acquired, convPending := true } = false := rfl
    constructor <;> simp_all
  · exact blockInv_of_stopped rfl rfl hdrive (by simp [hbyte]) (fun _ => hbit) (by simp)

/-- A data bit: the frame has a byte for it, and the cursors move on or the frame is complete (R160 to R162). -/
theorem BlockInv.shiftIn {bit : Bool} (h : BlockInv b) (harmed : b.armed = true) (hstate : b.state = .receivingData)
    (hs : shiftIn bit b = some c) : BlockInv c := by
  obtain ⟨g, hg, rfl⟩ := (shiftIn_eq_some_iff ..).1 hs
  obtain ⟨-, hdrive⟩ := h.armedBusy harmed
  have hbyte := h.receivingCursor hstate
  have hpartial := h.partialFrame hstate
  rcases advanceCursor_cases { b with frame := g } with ⟨hbit, he⟩ | ⟨-, hnext, he⟩ | ⟨-, hlast, he⟩ <;> rw [he]
  · have hbusy : busy b = true := (busy_eq_true_iff b).2 (.inr hstate)
    have h5 : b.byteCur ≠ 5#3 := fun h5 => by simp [h5] at hbyte
    exact { h with
      awaitingCursor := fun e => by simp [hstate] at e
      acquiredFrame := fun e => by simp [hstate] at e
      completeCursor := fun e => absurd e h5
      awaitingFrame := fun e => by simp [hstate] at e
      partialFrame := fun _ => Frame.partialAt_shift hpartial hbit hg }
  · exact { h with
      receivingCursor := fun _ => by dsimp only at hnext ⊢; bv_omega
      awaitingCursor := fun e => by simp [hstate] at e
      acquiredFrame := fun e => by simp [hstate] at e
      completeCursor := fun e => absurd e hnext
      cursorBound := by dsimp only at hnext ⊢; bv_omega
      awaitingFrame := fun e => by simp [hstate] at e
      partialFrame := fun _ => Frame.partialAt_nextByte hpartial hbyte hg }
  · exact blockInv_completeFrame hdrive hlast rfl

end

/-! ### EDGE and the other operations -/

/-- The states in which an armed EDGE can be of a class (R130). -/
def EdgeClass.ArisesIn : EdgeClass → AcqState → Prop
  | .stall, _ => True
  | .jitter, st => st = .awaitingResponse
  | .response, st => st = .awaitingResponse
  | .responseTimeout, st => st = .awaitingResponse
  | .dataBit _, st => st = .receivingData
  | .glitch, st => st = .receivingData
  | .dataTimeout, st => st = .receivingData
  | .terminal, st => st = .acquired ∨ st = .stopped

theorem classify_arisesIn (p : Params) (st : AcqState) (d : U32) : (classify p st d).ArisesIn st := by
  rcases classify_cases p st d with ⟨_, h⟩ | ⟨_, hst, _, h⟩ | ⟨_, hst, _, _, h⟩ | ⟨_, hst, _, _, h⟩ | ⟨_, hst, _, h⟩ |
    ⟨_, hst, _, _, h⟩ | ⟨_, hst, _, _, h⟩ | ⟨_, hst, h⟩ <;> rw [h]
  · trivial
  all_goals exact hst

/-- An armed EDGE keeps the invariant, whatever its class. -/
theorem BlockInv.applyClass {b b' : Block} {c : EdgeClass} {us : U32} (h : BlockInv b) (harmed : b.armed = true)
    (hc : c.ArisesIn b.state) (hb : applyClass c us b = some b') : BlockInv b' := by
  have hedge := h.setLastEdge us
  cases c with
  | dataBit one => exact hedge.shiftIn harmed hc hb
  | response => cases hb; exact hedge.beginData harmed hc
  | jitter => cases hb; exact h
  | terminal => cases hb; exact h
  | stall => cases hb; exact hedge.abort harmed nofun
  | responseTimeout => cases hb; exact hedge.abort harmed nofun
  | glitch => cases hb; exact hedge.abort harmed nofun
  | dataTimeout => cases hb; exact hedge.abort harmed nofun

/-- An armed EDGE completes: while data is received the cursor points into the frame (R35 I4). -/
theorem BlockInv.exists_applyClass {b : Block} {c : EdgeClass} (h : BlockInv b) (hc : c.ArisesIn b.state) (us : U32) :
    ∃ b', Machine.applyClass c us b = some b' := by
  refine Option.ne_none_iff_exists'.1 fun hnone => ?_
  obtain ⟨⟨one, rfl⟩, hpast⟩ := (applyClass_eq_none_iff ..).1 hnone
  have hbyte := h.receivingCursor hc
  bv_omega

theorem BlockInv.exec {i : Instr} {s t : State} (h : BlockInv s.blk) (he : exec i s = .next t) : BlockInv t.blk := by
  rcases exec_cases he with ⟨a, rfl, rfl⟩ | ⟨b, rfl, heffect⟩
  · exact h
  rw [State.withBlk_blk]
  cases i with
  | nop => cases heffect; exact h
  | cmdRsvd d => cases heffect; exact h
  | wrNoCmd a d => cases heffect; exact h
  | rd a => cases heffect
  | convAck => cases heffect; exact h.ackConversion
  | srst => cases heffect; exact blockInv_reset
  | start =>
    cases heffect
    rcases startBlock_cases s.cfg s.tsUs s.tsMs s.blk with ⟨_, hb⟩ | ⟨_, _, hb⟩ | ⟨_, hbusy, hb⟩ <;> rw [hb]
    · exact h.setResult _
    · exact h.setResult _
    · exact h.trigger hbusy _ _
  | release =>
    cases heffect
    split
    case isTrue hen => exact h.releaseLine ((releaseEnabled_iff ..).1 hen).1 _
    case isFalse => exact h
  | edge =>
    rcases heffect with ⟨_, rfl⟩ | ⟨harmed, hb⟩
    · exact h
    · exact h.applyClass harmed (classify_arisesIn ..) hb

/-- From the invariant every operation completes: only an EDGE could fault, and it does not. -/
theorem BlockInv.exists_exec {s : State} (h : BlockInv s.blk) (i : Instr) : ∃ t, Machine.exec i s = .next t := by
  cases i with
  | nop => exact ⟨_, rfl⟩
  | start => exact ⟨_, rfl⟩
  | convAck => exact ⟨_, rfl⟩
  | srst => exact ⟨_, rfl⟩
  | cmdRsvd d => exact ⟨_, rfl⟩
  | wrNoCmd a d => exact ⟨_, rfl⟩
  | rd a => exact ⟨_, rfl⟩
  | release =>
    by_cases hen : releaseEnabled s.cfg s.tsUs s.blk = true
    · exact ⟨_, if_pos hen⟩
    · exact ⟨_, if_neg hen⟩
  | edge =>
    by_cases harmed : s.blk.armed = true
    · obtain ⟨b, hb⟩ := h.exists_applyClass (c := s.edgeClass) (classify_arisesIn ..) s.tsUs
      exact ⟨_, execEdge_of_applyClass harmed hb⟩
    · exact ⟨_, if_neg harmed⟩

/-- Settles O42: completion from `exists_exec`, the invariant after it from `BlockInv.exec`. -/
theorem everyOperationCompletes : Obligations.EveryOperationCompletes := by
  intro i s h
  obtain ⟨t, ht⟩ := h.exists_exec i
  exact ⟨t, ht, h.exec ht⟩

/-! ### Steps -/

/-- No operation writes the ports it does not own, the parameters or the queue. -/
theorem exec_frame {i : Instr} {s t : State} (h : exec i s = .next t) :
    t.rst = s.rst ∧ t.cfg = s.cfg ∧ t.pending = s.pending := by
  rcases exec_cases h with ⟨a, -, rfl⟩ | ⟨b, rfl, -⟩ <;> exact ⟨rfl, rfl, rfl⟩

theorem perform_pending {i : Instr} {s t : State} (h : perform i s = .next t) : t.pending = s.pending := by
  cases hr : s.rst with
  | false => rw [perform_of_running i hr] at h; exact (exec_frame h).2.2
  | true => rw [perform_in_reset i hr] at h; cases h; exact heldInReset_pending i s

theorem accept_pending {st : Stimulus} {s t : State} (h : accept st s = .next t) : t.pending = s.pending := by
  rcases accept_cases h with ⟨i, -, hp⟩ | ⟨-, -, hp⟩ | ⟨level, -, -, rfl⟩ | ⟨level, -, rfl⟩
  · exact perform_pending hp
  · exact perform_pending (s := s.withSigIn false) hp
  · rfl
  · rfl

/-- A step takes the first input off the queue. -/
theorem step_pending {s t : State} (h : step s = .next t) : t.pending = s.pending.tail := by
  rcases step_cases h with ⟨hp, hi⟩ | ⟨inp, rest, hp, ha⟩ <;> rw [hp]
  · rcases idle_cases hi with ⟨-, rfl⟩ | ⟨-, -, rfl⟩ | ⟨-, -, he⟩
    · exact hp
    · exact hp
    · exact (exec_frame he).2.2.trans hp
  · exact accept_pending ha

section
variable {s t : State}

theorem Inv.of_running (h : BlockInv s.blk) (hr : s.rst = false) : Inv s := ⟨h, fun hr' => by simp [hr] at hr'⟩

theorem Inv.of_reset (h : s.blk = Block.reset) : Inv s := ⟨h ▸ blockInv_reset, fun _ => h⟩

theorem Inv.withTime (h : Inv s) (us ms : U32) : Inv (s.withTime us ms) := ⟨h.block, h.inReset⟩

theorem Inv.withPending (h : Inv s) (q : List Input) : Inv (s.withPending q) := ⟨h.block, h.inReset⟩

theorem Inv.withSigIn (h : Inv s) (level : Bool) : Inv (s.withSigIn level) := ⟨h.block, h.inReset⟩

/-- Where `rst` is or was asserted the record is at reset; a low level on a running block changes nothing (R232). -/
theorem Inv.withRst (h : Inv s) (level : Bool) : Inv (s.withRst level) := by
  by_cases hr : (level || s.rst) = true
  · exact .of_reset (if_pos hr)
  · have hrun : level = false ∧ s.rst = false := by simpa using hr
    exact .of_running (by simpa [hrun] using h.block) hrun.1

theorem Inv.perform {i : Instr} (h : Inv s) (hp : perform i s = .next t) : Inv t := by
  cases hr : s.rst with
  | false =>
    rw [perform_of_running i hr] at hp
    exact .of_running (h.block.exec hp) ((exec_frame hp).1.trans hr)
  | true =>
    rw [perform_in_reset i hr] at hp
    cases hp
    exact .of_reset (heldInReset_blk i s)

theorem Inv.accept {st : Stimulus} (h : Inv s) (ha : accept st s = .next t) : Inv t := by
  rcases accept_cases ha with ⟨i, -, hp⟩ | ⟨-, -, hp⟩ | ⟨level, -, -, rfl⟩ | ⟨level, -, rfl⟩
  · exact h.perform hp
  · exact (h.withSigIn false).perform hp
  · exact h.withSigIn level
  · exact h.withRst level

theorem Inv.idle (h : Inv s) (hi : idle s = .next t) : Inv t := by
  rcases idle_cases hi with ⟨-, rfl⟩ | ⟨-, -, rfl⟩ | ⟨hr, -, he⟩
  · exact .of_reset rfl
  · exact h
  · exact .of_running ((h.withTime _ _).block.exec he) ((exec_frame he).1.trans hr)

theorem Inv.step (h : Inv s) (hs : step s = .next t) : Inv t := by
  rcases step_cases hs with ⟨-, hi⟩ | ⟨inp, rest, -, ha⟩
  · exact h.idle hi
  · exact ((h.withPending rest).withTime _ _).accept ha

theorem Inv.exists_perform (h : Inv s) (i : Instr) : ∃ t, Machine.perform i s = .next t := by
  cases hr : s.rst with
  | false => rw [perform_of_running i hr]; exact h.block.exists_exec i
  | true => exact ⟨_, perform_in_reset i hr⟩

/-- From the invariant an input that is no INVALID word is accepted. -/
theorem Inv.exists_accept (h : Inv s) {inp : Input} (hv : inp.valid = true) :
    ∃ t, Machine.accept inp.stim s = .next t := by
  obtain ⟨st, us, ms⟩ := inp
  cases st with
  | opw w =>
    cases hd : decode w with
    | ok i => simpa only [Machine.accept, hd] using h.exists_perform i
    | error e => simp [Input.valid, hd] at hv
  | busWrite a d => exact h.exists_perform (ofWrite a d)
  | busRead a => exact h.exists_perform (.rd a)
  | sigLevel level =>
    by_cases hfall : (s.sigIn && !level) = true
    · simpa only [Machine.accept, if_pos hfall] using (h.withSigIn level).exists_perform .edge
    · exact ⟨_, if_neg hfall⟩
  | rstLevel level => exact ⟨_, rfl⟩

theorem Inv.exists_idle (h : Inv s) : ∃ t, Machine.idle s = .next t := by
  by_cases hr : s.rst = true
  · exact ⟨_, if_pos hr⟩
  by_cases hd : s.blk.driveLow = true
  · obtain ⟨t, ht⟩ := (h.withTime (releaseDue s.cfg s.tsUs s.blk) s.tsMs).block.exists_exec .release
    exact ⟨t, by rw [Machine.idle, if_neg hr, if_pos hd, ht]⟩
  · exact ⟨s, by rw [Machine.idle, if_neg hr, if_neg hd]⟩

theorem Inv.exists_step (h : Inv s) (hv : ∀ inp ∈ s.pending, inp.valid = true) : ∃ t, Machine.step s = .next t := by
  rw [step_eq]
  cases hp : s.pending with
  | nil => rw [stepInput_nil hp]; exact h.exists_idle
  | cons inp rest =>
    rw [stepInput_cons hp]
    exact ((h.withPending rest).withTime _ _).exists_accept (hv inp (by simp [hp]))

end

/-- Settles O44: the idle step and every stimulus keep the invariant. -/
theorem stepKeepsInvariant : Obligations.StepKeepsInvariant :=
  fun _ _ h hs => h.step hs

/-! ### Runs -/

/-- Settles O43: with `rst` released and the record at reset. -/
theorem resetMeetsInvariant : Obligations.ResetMeetsInvariant :=
  ⟨fun _ => .of_reset rfl, .of_reset rfl⟩

/-- Settles O45: the invariant holds at reset and along every run, and R35's six are among its fields. -/
theorem reachableStatesSatisfyR35 : Obligations.ReachableStatesSatisfyR35 := by
  intro p inputs n t hrun
  have h0 : Inv { State.resetWith p with pending := inputs } := .of_reset rfl
  have hinv : Inv t := run_keeps (fun _ _ h hs => h.step hs) h0 hrun
  have h := hinv.block
  refine ⟨h.armedBusy, h.driveLowAwaiting, fun hbusy => ?_, h.receivingCursor, h.awaitingCursor, h.acquiredFrame,
    h.completeCursor⟩
  have hphase := h.busyPhase hbusy
  cases ha : t.blk.armed with
  | false => exact .inl ⟨by simpa [ha] using hphase, rfl⟩
  | true => exact .inr ⟨by simpa [ha] using hphase, rfl⟩

/-- Settles O46: by induction on the length of the run, as each step completes, keeps the invariant and leaves only
inputs that were waiting. -/
theorem validInputsRunSafely : Obligations.ValidInputsRunSafely := by
  intro n
  induction n with
  | zero => exact fun s h _ => ⟨s, rfl, h⟩
  | succ n ih =>
    intro s h hv
    obtain ⟨u, hu⟩ := h.exists_step hv
    obtain ⟨t, ht, hinv⟩ := ih u (h.step hu) fun inp hmem =>
      hv inp (List.mem_of_mem_tail (step_pending hu ▸ hmem))
    exact ⟨t, (run_succ ..).2 ⟨u, hu, ht⟩, hinv⟩

end Sys2Proof.Machine
end

section
/-! PROOF. The register view: what each operation may change in it (O41), and its codes and bits (O20, O21). -/

namespace Sys2Proof.Machine

/-! ### Which fields a register shows -/

theorem addr_cases (a : Addr) :
    a = 0x0 ∨ a = 0x1 ∨ a = 0x2 ∨ a = 0x3 ∨ a = 0x4 ∨ (0x5 ≤ a ∧ a ≤ 0x9) ∨ a = 0xA ∨ 0xB ≤ a := by
  revert a; decide

theorem regRead_frame_congr {a : Addr} {b c : Block} (ha : 0x5 ≤ a ∧ a ≤ 0x9) (h : b.frame = c.frame) :
    regRead a b = regRead a c := by
  have hbyte : ∀ a : Addr, 0x5 ≤ a ∧ a ≤ 0x9 → a = 0x5 ∨ a = 0x6 ∨ a = 0x7 ∨ a = 0x8 ∨ a = 0x9 := by decide
  rcases hbyte a ha with rfl | rfl | rfl | rfl | rfl <;> simp [h]

/-- Records that agree on what a register shows read the same there (R36, R111). -/
theorem regRead_congr {a : Addr} {b c : Block} (hresult : a = 0x1 → b.result = c.result)
    (hstate : a = 0x2 → b.state = c.state) (hstatus : a = 0x3 → b.status = c.status)
    (hflags : a = 0x4 → flagsByte b = flagsByte c) (hframe : 0x5 ≤ a ∧ a ≤ 0x9 → b.frame = c.frame)
    (hcursor : a = 0xA → cursorByte b = cursorByte c) : regRead a b = regRead a c := by
  rcases addr_cases a with ha | ha | ha | ha | ha | ha | ha | ha
  · rw [ha]; rfl
  · rw [ha]; exact congrArg StartResult.byte (hresult ha)
  · rw [ha]; exact congrArg (fun st => (AcqState.code st).setWidth 8) (hstate ha)
  · rw [ha]; exact congrArg Status.byte (hstatus ha)
  · rw [ha]; exact hflags ha
  · exact regRead_frame_congr ha (hframe ha)
  · rw [ha]; exact hcursor ha
  · rw [regRead_reserved b ha, regRead_reserved c ha]

/-- Only the addresses 0x1 to 0xA can tell two records apart: the others read 0x00. -/
theorem regRead_eq_or_shows (b c : Block) (a : Addr) : regRead a b = regRead a c ∨ (0x1 ≤ a ∧ a ≤ 0xA) := by
  by_cases hzero : a = 0x0
  · exact .inl (by rw [hzero]; rfl)
  by_cases hreserved : 0xB ≤ a
  · exact .inl (by rw [regRead_reserved b hreserved, regRead_reserved c hreserved])
  · exact .inr ⟨by bv_omega, by bv_omega⟩

theorem regRead_setResult {a : Addr} (ha : a ≠ 0x1) (r : StartResult) (b : Block) :
    regRead a (setResult r b) = regRead a b :=
  regRead_congr (fun h => absurd h ha) (fun _ => rfl) (fun _ => rfl) (fun _ => rfl) (fun _ => rfl) (fun _ => rfl)

theorem regRead_ackConversion {a : Addr} (ha : a ≠ 0x4) (b : Block) : regRead a (ackConversion b) = regRead a b :=
  regRead_congr (fun _ => rfl) (fun _ => rfl) (fun _ => rfl) (fun h => absurd h ha) (fun _ => rfl) (fun _ => rfl)

theorem regRead_releaseLine {a : Addr} (ha : a ≠ 0x4) (us : U32) (b : Block) :
    regRead a (releaseLine us b) = regRead a b :=
  regRead_congr (fun _ => rfl) (fun _ => rfl) (fun _ => rfl) (fun h => absurd h ha) (fun _ => rfl) (fun _ => rfl)

/-! ### What START and EDGE may change -/

/-- START changes RESULT; where it triggers, it changes the other registers too, but never STATUS. -/
theorem regRead_startBlock (p : Params) (us ms : U32) (b : Block) (a : Addr) :
    regRead a (startBlock p us ms b) = regRead a b ∨ a = 0x1 ∨
      (a ≠ 0x3 ∧ 0x2 ≤ a ∧ a ≤ 0xA ∧ (startBlock p us ms b).result = .acquiring) := by
  by_cases h1 : a = 0x1
  · exact .inr (.inl h1)
  rcases startBlock_cases p us ms b with ⟨_, hb⟩ | ⟨_, _, hb⟩ | ⟨_, _, hb⟩ <;> rw [hb]
  · exact .inl (regRead_setResult h1 _ b)
  · exact .inl (regRead_setResult h1 _ b)
  by_cases h3 : a = 0x3
  · exact .inl (by rw [h3]; rfl)
  exact (regRead_eq_or_shows _ _ a).imp_right fun ⟨hlo, hhi⟩ => .inr ⟨h3, by bv_omega, hhi, rfl⟩

/-- An armed EDGE leaves RESULT and the constant registers as they are. -/
theorem regRead_applyClass {c : EdgeClass} {us : U32} {b b' : Block} (h : applyClass c us b = some b') (a : Addr) :
    regRead a b' = regRead a b ∨ (0x2 ≤ a ∧ a ≤ 0xA) := by
  by_cases h1 : a = 0x1
  · exact .inl (by rw [h1]; exact congrArg StartResult.byte (applyClass_edgeFrame h).result)
  exact (regRead_eq_or_shows _ _ a).imp_right fun ⟨hlo, hhi⟩ => ⟨by bv_omega, hhi⟩

/-- Settles O41: from what each operation's effect on the record changes in the register view. -/
theorem registerViewFrame : Obligations.RegisterViewFrame := by
  intro i s t a h
  rcases exec_cases h with ⟨r, rfl, rfl⟩ | ⟨b, rfl, heffect⟩
  · exact .inl rfl
  rw [State.withBlk_blk]
  cases i with
  | nop => cases heffect; exact .inl rfl
  | cmdRsvd d => cases heffect; exact .inl rfl
  | wrNoCmd r d => cases heffect; exact .inl rfl
  | rd r => cases heffect
  | srst => cases heffect; exact regRead_eq_or_shows _ _ a
  | start => cases heffect; exact regRead_startBlock _ _ _ _ a
  | convAck =>
    cases heffect
    exact (Decidable.em (a = 0x4)).symm.imp_left fun ha => regRead_ackConversion ha _
  | release =>
    cases heffect
    split
    case isTrue => exact (Decidable.em (a = 0x4)).symm.imp_left fun ha => regRead_releaseLine ha _ _
    case isFalse => exact .inl rfl
  | edge =>
    rcases heffect with ⟨_, rfl⟩ | ⟨harmed, hb⟩
    · exact .inl rfl
    · exact (regRead_applyClass hb a).imp_right fun ⟨hlo, hhi⟩ => ⟨hlo, hhi, harmed⟩

/-! ### Codes and bits -/

/-- Settles O20: the three registers show the codes of the fields, value by value. -/
theorem codesAsTheHostReadsThem : Obligations.CodesAsTheHostReadsThem := by
  intro b
  refine ⟨(regRead_state b).trans ?_, (regRead_status b).trans ?_, (regRead_result b).trans ?_⟩
  · cases b.state <;> rfl
  · cases b.status <;> rfl
  · cases b.result <;> rfl

/-- The bits of FLAGS, lowest first (R37). -/
theorem flagsByte_bits (b : Block) :
    (flagsByte b).getLsbD 0 = busy b ∧ (flagsByte b).getLsbD 1 = b.convPending ∧ (flagsByte b).getLsbD 2 = b.armed ∧
      (flagsByte b).getLsbD 3 = b.driveLow ∧ (flagsByte b).getLsbD 4 = b.firstDone ∧
      (flagsByte b).extractLsb' 5 3 = 0#3 := by
  have h : ∀ first drive armed conv busy : Bool,
      let w : Byte := 0b000#3 ++ BitVec.ofBool first ++ BitVec.ofBool drive ++ BitVec.ofBool armed ++
        BitVec.ofBool conv ++ BitVec.ofBool busy
      w.getLsbD 0 = busy ∧ w.getLsbD 1 = conv ∧ w.getLsbD 2 = armed ∧ w.getLsbD 3 = drive ∧ w.getLsbD 4 = first ∧
        w.extractLsb' 5 3 = 0#3 := by decide
  exact h b.firstDone b.driveLow b.armed b.convPending (busy b)

/-- The fields of CURSOR (R38). -/
theorem cursorByte_fields (b : Block) :
    (cursorByte b).extractLsb' 0 3 = b.bitCur ∧ (cursorByte b).getLsbD 3 = false ∧
      (cursorByte b).extractLsb' 4 3 = b.byteCur ∧ (cursorByte b).getLsbD 7 = false := by
  have h : ∀ bit byte : BitVec 3, let w : Byte := 0b0#1 ++ byte ++ 0b0#1 ++ bit
      w.extractLsb' 0 3 = bit ∧ w.getLsbD 3 = false ∧ w.extractLsb' 4 3 = byte ∧ w.getLsbD 7 = false := by decide
  exact h b.bitCur b.byteCur

/-- Settles O21: the bits of FLAGS and the fields of CURSOR, and both registers of the reset record. -/
theorem flagsAndCursorLayout : Obligations.FlagsAndCursorLayout := by
  intro b
  obtain ⟨hbusy, hconv, harmed, hdrive, hfirst, hpad⟩ := flagsByte_bits b
  obtain ⟨hbit, hthree, hbyte, hseven⟩ := cursorByte_fields b
  exact ⟨hbusy, hconv, harmed, hdrive, hfirst, hpad, hbit, hthree, hbyte, hseven, rfl, rfl⟩

end Sys2Proof.Machine
end

section
/-! PROOF. How inputs reach the block: the words of a trace (O9), the operation that a step runs (O10, O11),
and the one fault (O35). -/

namespace Sys2Proof

theorem decode_pack_write (a : Addr) (d : Byte) : decode (pack 0b00 a d) = .ok (ofWrite a d) := by
  simp [decode]

theorem decode_pack_read (a : Addr) : decode (pack 0b01 a 0x00) = .ok (.rd a) := by
  simp [decode]

end Sys2Proof

namespace Sys2Proof.Machine

/-- Settles O9: the words of writes and reads by their fields, the other words by themselves. -/
theorem traceOperationsDecode : Obligations.TraceOperationsDecode := by
  intro op
  cases op with
  | nop => exact decode_pack_write _ _
  | start => exact decode_pack_write _ _
  | convAck => exact decode_pack_write _ _
  | srst => exact decode_pack_write _ _
  | cmd v => exact decode_pack_write _ v
  | wr a d => exact decode_pack_write a d
  | rdName r => cases r <;> exact decode_pack_read _
  | rdAddr a => exact decode_pack_read a
  | edge => rfl
  | release => rfl

/-! ### What a stimulus runs -/

section
variable {s : State} (hrst : s.rst = false)
include hrst

theorem accept_word {w : Opw} {i : Instr} (hw : decode w = .ok i) : accept (.opw w) s = exec i s := by
  simp only [accept, hw]
  exact perform_of_running i hrst

theorem accept_write (a : Addr) (d : Byte) : accept (.busWrite a d) s = exec (ofWrite a d) s :=
  perform_of_running _ hrst

theorem accept_read (a : Addr) : accept (.busRead a) s = exec (.rd a) s :=
  perform_of_running _ hrst

/-- A fall of `sig_in` is an EDGE, and any other level is recorded only (R40). -/
theorem accept_level (level : Bool) :
    accept (.sigLevel level) s =
      if s.sigIn = true ∧ level = false then exec .edge (s.withSigIn level) else .next (s.withSigIn level) := by
  simp only [accept, perform_of_running .edge (s := s.withSigIn level) hrst, Bool.and_eq_true, Bool.not_eq_true']

end

theorem accept_invalid {w : Opw} {e : Invalid} (hw : decode w = .error e) (s : State) :
    accept (.opw w) s = .refused (.invalidOpw e) := by
  simp only [accept, hw]

/-- A step accepts the first stimulus of the queue at that stimulus's times. -/
theorem step_cons {s : State} {st : Stimulus} {us ms : U32} {rest : List Input} (h : s.pending = ⟨st, us, ms⟩ :: rest) :
    step s = accept st { s with pending := rest, tsUs := us, tsMs := ms } :=
  (step_eq s).trans (stepInput_cons h)

/-- Settles O10: what the step accepts, by the form of the stimulus. -/
theorem stepRunsDecodedOperation : Obligations.StepRunsDecodedOperation := by
  intro s us ms rest st hrst hp
  have hrun : ({ s with pending := rest, tsUs := us, tsMs := ms } : State).rst = false := hrst
  rw [step_cons hp]
  refine ⟨?_, ?_, ?_, ?_, ?_⟩
  · rintro w i rfl hw
    exact accept_word hrun hw
  · rintro w e rfl hw
    exact accept_invalid hw _
  · rintro a d rfl
    exact accept_write hrun a d
  · rintro a rfl
    exact accept_read hrun a
  · rintro rfl hhigh
    exact (accept_level hrun false).trans (if_pos ⟨hhigh, rfl⟩)

/-- Settles O11: the fall of `sig_in`, and every other level. -/
theorem signalFallIsEdge : Obligations.SignalFallIsEdge := by
  intro s us ms rest level hrst hp
  have hrun : ({ s with pending := rest, tsUs := us, tsMs := ms } : State).rst = false := hrst
  rw [step_cons hp, accept_level hrun]
  by_cases hfall : s.sigIn = true ∧ level = false
  · obtain ⟨hhigh, rfl⟩ := hfall
    simp [hhigh, State.withSigIn]
  · rw [if_neg hfall, if_neg hfall]
    rfl

/-! ### The one fault -/

theorem classify_dataBit {p : Params} {d : U32} (hstall : d ≤ p.tStall) (hlo : p.tBitLo < d) (hhi : d < p.tBitHi) :
    classify p .receivingData d = .dataBit (decide (p.tOne ≤ d)) := by
  have hbelow : ¬ p.tStall < d := BitVec.not_lt.2 hstall
  simp [classify, classifyData, hbelow, hlo, hhi]

theorem execEdge_of_applyClass_none {s : State} (harmed : s.blk.armed = true)
    (hnone : applyClass s.edgeClass s.tsUs s.blk = none) : execEdge s = .fault .cursorPastFrame := by
  unfold execEdge
  rw [if_pos harmed]
  simp [hnone]

/-- Settles O35: the delta is a data bit's, and there is no byte for it. -/
theorem cursorPastFrameFaults : Obligations.CursorPastFrameFaults := by
  intro s harmed hstate hpast hstall hlo hhi
  have hclass : s.edgeClass = .dataBit (decide (s.cfg.tOne ≤ s.tsUs - s.blk.lastEdge)) := by
    rw [State.edgeClass, hstate]
    exact classify_dataBit hstall hlo hhi
  exact execEdge_of_applyClass_none harmed ((applyClass_eq_none_iff ..).2 ⟨⟨_, hclass⟩, hpast⟩)

end Sys2Proof.Machine
end

section
/-! PROOF. An accepted frame is frozen (O47), and a getter reads one frame (O59): without START, SRST and `rst` every step
of a resting block leaves the record as it is, but for CONV_ACK. -/

namespace Sys2Proof.Machine

/-! ### A resting block -/

/-- Edges are not processed and no trigger hold runs, so neither EDGE nor RELEASE has an effect (R105, R132). -/
structure Block.Resting (b : Block) : Prop where
  disarmed : b.armed = false
  released : b.driveLow = false

theorem BlockInv.resting {b : Block} (h : BlockInv b) (hstate : b.state = .acquired) : b.Resting := by
  have hbusy : busy b = false := (busy_eq_false_iff b).2 (.inr hstate)
  refine ⟨Bool.eq_false_iff.2 fun harmed => ?_, Bool.eq_false_iff.2 fun hdrive => ?_⟩
  · simpa [hbusy] using (h.armedBusy harmed).1
  · simpa [hstate] using (h.driveLowAwaiting hdrive).1

theorem Block.Resting.ackConversion {b : Block} (h : b.Resting) : (ackConversion b).Resting :=
  ⟨h.disarmed, h.released⟩

/-- Of the operations other than START and SRST only CONV_ACK writes the record of a resting block. -/
theorem Block.Resting.exec {i : Instr} {s t : State} (h : s.blk.Resting) (hstart : i ≠ .start) (hsrst : i ≠ .srst)
    (he : exec i s = .next t) : t.blk = s.blk ∨ i = .convAck ∧ t.blk = Machine.ackConversion s.blk := by
  rcases exec_cases he with ⟨a, -, rfl⟩ | ⟨b, rfl, heffect⟩
  · exact .inl rfl
  rw [State.withBlk_blk]
  cases i with
  | nop => exact .inl heffect
  | cmdRsvd d => exact .inl heffect
  | wrNoCmd a d => exact .inl heffect
  | rd a => cases heffect
  | start => exact absurd rfl hstart
  | srst => exact absurd rfl hsrst
  | convAck => exact .inr ⟨rfl, heffect⟩
  | release =>
    have hoff : ¬ releaseEnabled s.cfg s.tsUs s.blk = true := by simp [releaseEnabled_iff, h.released]
    exact .inl (heffect.trans (if_neg hoff))
  | edge =>
    rcases heffect with ⟨-, hb⟩ | ⟨harmed, -⟩
    · exact .inl hb
    · exact absurd harmed (by simp [h.disarmed])

/-! ### Inputs that are no START and no reset -/

theorem Input.starts_eq_false_iff (inp : Input) : inp.starts = false ↔ inp.stim.instr ≠ some .start :=
  decide_eq_false_iff_not

theorem Input.resets_eq_false_iff (inp : Input) :
    inp.resets = false ↔ inp.stim.instr ≠ some .srst ∧ inp.stim ≠ .rstLevel true := by
  simp [Input.resets]

section
variable {s t : State}

/-- Such an input leaves `rst` released, and of such inputs only CONV_ACK writes the record of a resting block. -/
theorem Block.Resting.accept {inp : Input} (h : s.blk.Resting) (hr : s.rst = false) (hstart : inp.starts = false)
    (hreset : inp.resets = false) (ha : accept inp.stim s = .next t) :
    t.rst = false ∧
      (t.blk = s.blk ∨ inp.stim.instr = some .convAck ∧ t.blk = Machine.ackConversion s.blk) := by
  rw [Input.starts_eq_false_iff] at hstart
  obtain ⟨hsrst, hrst⟩ := (Input.resets_eq_false_iff inp).1 hreset
  rcases accept_cases ha with ⟨i, hi, hp⟩ | ⟨-, -, hp⟩ | ⟨level, -, -, rfl⟩ | ⟨level, hlevel, rfl⟩
  · rw [perform_of_running i hr] at hp
    rw [hi] at hstart hsrst ⊢
    have hblk := h.exec (fun e => hstart (congrArg some e)) (fun e => hsrst (congrArg some e)) hp
    exact ⟨(exec_frame hp).1.trans hr, hblk.imp_right (And.imp_left (congrArg some))⟩
  · rw [perform_of_running .edge (s := s.withSigIn false) hr] at hp
    have hblk := h.exec (i := .edge) (s := s.withSigIn false) nofun nofun hp
    exact ⟨(exec_frame hp).1.trans hr, .inl (hblk.resolve_right fun hack => nomatch hack.1)⟩
  · exact ⟨hr, .inl rfl⟩
  · cases level with
    | true => exact absurd hlevel hrst
    | false => exact ⟨rfl, .inl (by simp [hr])⟩

/-- The same of a step, which may also be that of the idle machine. -/
theorem Block.Resting.step (h : s.blk.Resting) (hr : s.rst = false)
    (hquiet : ∀ inp ∈ s.pending, inp.starts = false ∧ inp.resets = false) (hs : step s = .next t) :
    t.rst = false ∧
      (t.blk = s.blk ∨
        (∃ inp ∈ s.pending, inp.stim.instr = some .convAck) ∧ t.blk = Machine.ackConversion s.blk) := by
  rcases step_cases hs with ⟨-, hi⟩ | ⟨inp, rest, hp, ha⟩
  · rcases idle_cases hi with ⟨hr', -⟩ | ⟨-, -, rfl⟩ | ⟨-, hdrive, -⟩
    · exact absurd hr' (by simp [hr])
    · exact ⟨hr, .inl rfl⟩
    · exact absurd hdrive (by simp [h.released])
  · have hmem : inp ∈ s.pending := by simp [hp]
    obtain ⟨hstart, hreset⟩ := hquiet inp hmem
    obtain ⟨hrun, hblk⟩ :=
      Block.Resting.accept (s := (s.withPending rest).withTime inp.nowUs inp.nowMs) h hr hstart hreset ha
    exact ⟨hrun, hblk.imp_right (And.imp_left fun hack => ⟨inp, hmem, hack⟩)⟩

/-! ### Runs of a resting block -/

/-- The machine `t` goes on from `s` with inputs of `s` only, and holds the record of `s`, but for `convPending` where
one of those inputs is CONV_ACK. -/
structure RestsSince (s t : State) : Prop where
  running : t.rst = false
  pending : ∀ inp ∈ t.pending, inp ∈ s.pending
  record : t.blk = s.blk ∨
    (∃ inp ∈ s.pending, inp.stim.instr = some .convAck) ∧ t.blk = ackConversion s.blk

theorem RestsSince.refl (hr : s.rst = false) : RestsSince s s := ⟨hr, fun _ h => h, .inl rfl⟩

theorem RestsSince.resting (h : RestsSince s t) (hrest : s.blk.Resting) : t.blk.Resting := by
  rcases h.record with hb | ⟨-, hb⟩ <;> rw [hb]
  · exact hrest
  · exact hrest.ackConversion

theorem RestsSince.step {u : State} (h : RestsSince s t) (hrest : s.blk.Resting)
    (hquiet : ∀ inp ∈ s.pending, inp.starts = false ∧ inp.resets = false) (hs : step t = .next u) :
    RestsSince s u := by
  obtain ⟨hrun, hblk⟩ :=
    (h.resting hrest).step h.running (fun inp hmem => hquiet inp (h.pending inp hmem)) hs
  have hpending : ∀ inp ∈ u.pending, inp ∈ s.pending := fun inp hmem =>
    h.pending inp (List.mem_of_mem_tail (step_pending hs ▸ hmem))
  refine ⟨hrun, hpending, ?_⟩
  rcases hblk with hkept | ⟨⟨inp, hmem, hack⟩, hacked⟩
  · rw [hkept]; exact h.record
  · refine .inr ⟨⟨inp, h.pending inp hmem, hack⟩, ?_⟩
    rcases h.record with hb | ⟨-, hb⟩ <;> rw [hacked, hb]
    rfl

/-- Every run without START, SRST and `rst` leaves a resting block so. -/
theorem Block.Resting.run {n : Nat} (h : s.blk.Resting) (hr : s.rst = false)
    (hquiet : ∀ inp ∈ s.pending, inp.starts = false ∧ inp.resets = false) (hrun : run n s = .next t) :
    RestsSince s t :=
  run_keeps (fun _ _ hu hs => hu.step h hquiet hs) (.refl hr) hrun

/-- But for FLAGS, the registers read the same. -/
theorem RestsSince.regRead {a : Addr} (h : RestsSince s t) (ha : a ≠ 0x4) :
    Machine.regRead a t.blk = Machine.regRead a s.blk := by
  rcases h.record with hb | ⟨-, hb⟩ <;> rw [hb]
  exact regRead_ackConversion ha _

theorem RestsSince.frame (h : RestsSince s t) : t.blk.frame = s.blk.frame := by
  rcases h.record with hb | ⟨-, hb⟩ <;> rw [hb]
  rfl

end

theorem regRead_state_eq_acquired_iff (b : Block) : regRead 0x2#4 b = 0x03#8 ↔ b.state = .acquired := by
  rw [regRead_state]
  cases b.state <;> decide

/-- Settles O47: an Acquired block rests, so only `convPending` may change, which FLAGS alone shows. -/
theorem acquiredFrameIsFrozen : Obligations.AcquiredFrameIsFrozen := by
  intro n s t hinv hr hread hquiet hrun
  have hstate := (regRead_state_eq_acquired_iff s.blk).1 hread
  obtain ⟨hstatus, -, -, hsum⟩ := hinv.block.acquiredFrame hstate
  have h : RestsSince s t := (hinv.block.resting hstate).run hr hquiet hrun
  refine ⟨fun a ha => h.regRead (by rintro rfl; revert ha; decide), ?_, h.frame, ?_⟩
  · exact (h.regRead (by decide)).trans (congrArg Status.byte hstatus)
  · rw [h.frame]
    exact hsum

/-! ### A getter on an accepted frame -/

/-- A getter finds the record `b` in the machine, and no input yet to arrive may change it or stop a step. -/
structure GetterReady (b : Block) (s : State) : Prop where
  inv : Inv s
  running : s.rst = false
  record : s.blk = b
  inputs : ∀ inp ∈ s.pending,
    inp.valid = true ∧ inp.starts = false ∧ inp.resets = false ∧ inp.stim.instr ≠ some .convAck

section
variable {b : Block} {s : State} (hrest : b.Resting) (h : GetterReady b s)
include hrest h

/-- However long a getter waits, it finds the same record. -/
theorem GetterReady.run (n : Nat) : ∃ t, Machine.run n s = .next t ∧ GetterReady b t := by
  obtain ⟨hinv, hr, rfl, hinputs⟩ := h
  obtain ⟨t, hrun, hinv'⟩ := validInputsRunSafely n s hinv fun inp hmem => (hinputs inp hmem).1
  have hquiet : ∀ inp ∈ s.pending, inp.starts = false ∧ inp.resets = false := fun inp hmem =>
    have ⟨_, hstart, hreset, _⟩ := hinputs inp hmem
    ⟨hstart, hreset⟩
  have hsince : RestsSince s t := hrest.run hr hquiet hrun
  have hrecord : t.blk = s.blk := hsince.record.resolve_right fun ⟨⟨inp, hmem, hack⟩, _⟩ =>
    have ⟨_, _, _, hnoAck⟩ := hinputs inp hmem
    hnoAck hack
  exact ⟨t, hrun, hinv', hsince.running, hrecord, fun inp hmem => hinputs inp (hsince.pending inp hmem)⟩

theorem GetterReady.readAfter (n : Nat) (a : Addr) :
    ∃ t, Machine.readAfter n a s = some (regRead a b, t) ∧ GetterReady b t := by
  obtain ⟨t, hrun, ht⟩ := h.run hrest n
  have hperform : perform (.rd a) t = .next (t.withRdata (regRead a b)) := by
    rw [perform_of_running _ ht.running, ← ht.record]
    rfl
  refine ⟨t.withRdata (regRead a b), ?_, ht.inv.perform hperform, ht.running, ht.record, ht.inputs⟩
  rw [Machine.readAfter, (waitThen_eq_some_iff ..).2 ⟨t, hrun, hperform⟩]
  rfl

/-- The five reads of a getter answer the bytes of one frame. -/
theorem GetterReady.readFrame (wait : Nat → Nat) :
    ∃ t, Machine.readFrame wait s = some (b.frame, t) ∧ GetterReady b t := by
  obtain ⟨s1, h0, hs1⟩ := h.readAfter hrest (wait 2) 0x5#4
  obtain ⟨s2, h1, hs2⟩ := hs1.readAfter hrest (wait 3) 0x6#4
  obtain ⟨s3, h2, hs3⟩ := hs2.readAfter hrest (wait 4) 0x7#4
  obtain ⟨s4, h3, hs4⟩ := hs3.readAfter hrest (wait 5) 0x8#4
  obtain ⟨s5, h4, hs5⟩ := hs4.readAfter hrest (wait 6) 0x9#4
  exact ⟨s5, by simp [Machine.readFrame, h0, h1, h2, h3, h4], hs5⟩

/-- The lazy conversion: the frame is interpreted, and the conversion acknowledged (R183). -/
theorem GetterReady.convertFrame (v : Variant) (wait : Nat → Nat) :
    ∃ u, Machine.convertFrame v wait s = some (interpret v b.frame, u) ∧ u.blk = ackConversion b := by
  obtain ⟨t, hframe, ht⟩ := h.readFrame hrest wait
  obtain ⟨u, hrun, hu⟩ := ht.run hrest (wait 7)
  have hperform : perform .convAck u = .next (u.withBlk (ackConversion b)) := by
    rw [perform_of_running _ hu.running, ← hu.record]
    rfl
  have hack := (waitThen_eq_some_iff (wait 7) .convAck t _).2 ⟨u, hrun, hperform⟩
  exact ⟨u.withBlk (ackConversion b), by simp [Machine.convertFrame, hframe, hack], rfl⟩

/-- FLAGS shows the pending conversion in bit 1 (R37), so the frame is converted. -/
theorem GetterReady.getAcquired (hconv : b.convPending = true) (v : Variant) (d : DewFormulas) (q : Quantity)
    (wait : Nat → Nat) (cached : Reading) :
    ∃ u, Machine.getAcquired v d q wait cached s =
        some ⟨.value ((interpret v b.frame).value d q), interpret v b.frame, u⟩ ∧ u.blk = ackConversion b := by
  obtain ⟨t, hflags, ht⟩ := h.readAfter hrest (wait 1) 0x4#4
  obtain ⟨u, hu, hblk⟩ := ht.convertFrame hrest v wait
  obtain ⟨-, hbit, -⟩ := flagsByte_bits b
  exact ⟨u, by simp [Machine.getAcquired, hflags, hbit, hconv, hu], hblk⟩

end

/-- Settles O59: the record is the same at each of the getter's reads, and STATE and FLAGS send it to the conversion. -/
theorem getterReadsOneFrame : Obligations.GetterReadsOneFrame := by
  intro v d q wait cached s hinv hr hstate hconv hinputs
  have hrest := hinv.block.resting hstate
  have h : GetterReady s.blk s := ⟨hinv, hr, rfl, hinputs⟩
  obtain ⟨t, hread, ht⟩ := h.readAfter hrest (wait 0) 0x2#4
  obtain ⟨u, hu, hblk⟩ := ht.getAcquired hrest hconv v d q wait cached
  rw [(regRead_state_eq_acquired_iff s.blk).2 hstate] at hread
  refine ⟨u, ?_, hblk⟩
  rw [getValue, hread]
  exact hu

end Sys2Proof.Machine
end

section
/-! PROOF. The encoding: the decoder and the encoder are inverse to each other on well-formed operations (O7, O8), both
agree with the opcode map and the opcode table of R78 (O5, O6), and a table word placed by the host is run (O12). -/

namespace Sys2Proof

/-! ### Decoding a packed word -/

theorem ofWrite_cmd (d : Byte) : ofWrite 0x0#4 d = command d := if_pos rfl

theorem ofWrite_of_ne {a : Addr} (ha : a ≠ 0x0#4) (d : Byte) : ofWrite a d = .wrNoCmd a d := if_neg ha

theorem decode_pack_cmdRsvd {d : Byte} (hd : 0x04#8 ≤ d) : decode (pack 0b00#2 0x0#4 d) = .ok (.cmdRsvd d) :=
  calc decode (pack 0b00#2 0x0#4 d) = .ok (ofWrite 0x0#4 d) := decode_pack_write _ _
    _ = .ok (.cmdRsvd d) := by rw [ofWrite_cmd, command_of_reserved d hd]

theorem decode_pack_wrNoCmd {a : Addr} (ha : a ≠ 0x0#4) (d : Byte) : decode (pack 0b00#2 a d) = .ok (.wrNoCmd a d) :=
  calc decode (pack 0b00#2 a d) = .ok (ofWrite a d) := decode_pack_write a d
    _ = .ok (.wrNoCmd a d) := by rw [ofWrite_of_ne ha]

/-- The decoder inverts the encoder, operation by operation. -/
theorem decode_encode {i : Instr} (hwf : i.wf = true) : decode (encode i) = .ok i := by
  cases i with
  | nop => exact decode_pack_write _ _
  | start => exact decode_pack_write _ _
  | convAck => exact decode_pack_write _ _
  | srst => exact decode_pack_write _ _
  | cmdRsvd d => exact decode_pack_cmdRsvd (of_decide_eq_true hwf)
  | wrNoCmd a d => exact decode_pack_wrNoCmd (of_decide_eq_true hwf) d
  | rd a => exact decode_pack_read a
  | edge => rfl
  | release => rfl

/-! ### What a word decodes to -/

theorem ofWrite_wf (a : Addr) (d : Byte) : (ofWrite a d).wf = true := by
  by_cases ha : a = 0x0#4
  · rw [ha, ofWrite_cmd]
    exact command_wf d
  · rw [ofWrite_of_ne ha]
    exact decide_eq_true ha

theorem encode_command (d : Byte) : encode (command d) = pack 0b00#2 0x0#4 d := by
  unfold command
  split
  next h => rw [h]; rfl
  split
  next h => rw [h]; rfl
  split
  next h => rw [h]; rfl
  split
  next h => rw [h]; rfl
  rfl

theorem encode_ofWrite (a : Addr) (d : Byte) : encode (ofWrite a d) = pack 0b00#2 a d := by
  by_cases ha : a = 0x0#4
  · rw [ha, ofWrite_cmd, encode_command]
  · rw [ofWrite_of_ne ha]
    rfl

theorem kind_cases (k : BitVec 2) : k = 0b00#2 ∨ k = 0b01#2 ∨ k = 0b10#2 ∨ k = 0b11#2 := by
  revert k
  decide

/-- What the decoder answers for a kind of word whose fields beside the operands must be zero (R78 step 6). -/
def okIf (zero : Prop) [Decidable zero] (i : Instr) (e : Invalid) : Except Invalid Instr :=
  if zero then .ok i else .error e

section
variable {zero : Prop} [Decidable zero] {i j : Instr} {e : Invalid}

theorem okIf_eq_ok_iff : okIf zero i e = .ok j ↔ zero ∧ j = i := by
  unfold okIf
  by_cases h : zero
  · rw [if_pos h, Except.ok.injEq, and_iff_right h, eq_comm]
  · rw [if_neg h]
    exact ⟨nofun, fun hj => absurd hj.1 h⟩

theorem okIf_eq_error_iff : (∃ e', okIf zero i e = .error e') ↔ ¬ zero := by
  unfold okIf
  by_cases h : zero
  · rw [if_pos h]
    exact ⟨nofun, fun hn => absurd h hn⟩
  · rw [if_neg h]
    exact ⟨fun _ => h, fun _ => ⟨e, rfl⟩⟩

end

theorem decode_pack_kind_read (a : Addr) (d : Byte) :
    decode (pack 0b01#2 a d) = okIf (d = 0x00#8) (.rd a) .readWithData := by
  simp [decode, okIf]

theorem decode_pack_kind_edge (a : Addr) (d : Byte) :
    decode (pack 0b10#2 a d) = okIf (a = 0x0#4 ∧ d = 0x00#8) .edge .edgeWithOperand := by
  simp [decode, okIf]

theorem decode_pack_kind_release (a : Addr) (d : Byte) :
    decode (pack 0b11#2 a d) = okIf (a = 0x0#4 ∧ d = 0x00#8) .release .releaseWithOperand := by
  simp [decode, okIf]

/-- The operands with which a word of each kind decodes, and the operation it is then (R78). -/
theorem decode_pack_cases {k : BitVec 2} {a : Addr} {d : Byte} {i : Instr} (h : decode (pack k a d) = .ok i) :
    (k = 0b00#2 ∧ i = ofWrite a d) ∨ (k = 0b01#2 ∧ d = 0x00#8 ∧ i = .rd a) ∨
      (k = 0b10#2 ∧ (a = 0x0#4 ∧ d = 0x00#8) ∧ i = .edge) ∨
      (k = 0b11#2 ∧ (a = 0x0#4 ∧ d = 0x00#8) ∧ i = .release) := by
  rcases kind_cases k with rfl | rfl | rfl | rfl
  · exact .inl ⟨rfl, Except.ok.inj (h.symm.trans (decode_pack_write a d))⟩
  · rw [decode_pack_kind_read] at h
    exact .inr (.inl ⟨rfl, okIf_eq_ok_iff.1 h⟩)
  · rw [decode_pack_kind_edge] at h
    exact .inr (.inr (.inl ⟨rfl, okIf_eq_ok_iff.1 h⟩))
  · rw [decode_pack_kind_release] at h
    exact .inr (.inr (.inr ⟨rfl, okIf_eq_ok_iff.1 h⟩))

/-- The encoder inverts the decoder, and what decodes is well formed. -/
theorem wf_and_encode_of_decode {w : Opw} {i : Instr} (h : decode w = .ok i) : i.wf = true ∧ encode i = w := by
  rw [← pack_fields w] at h ⊢
  rcases decode_pack_cases h with ⟨hk, rfl⟩ | ⟨hk, hd, rfl⟩ | ⟨hk, ⟨ha, hd⟩, rfl⟩ | ⟨hk, ⟨ha, hd⟩, rfl⟩
  · rw [hk]
    exact ⟨ofWrite_wf _ _, encode_ofWrite _ _⟩
  · rw [hk, hd]
    exact ⟨rfl, rfl⟩
  · rw [hk, ha, hd]
    exact ⟨rfl, rfl⟩
  · rw [hk, ha, hd]
    exact ⟨rfl, rfl⟩

/-- The words of R78 step 6: a read with data, and an EDGE or a RELEASE with an address or data. -/
theorem decode_pack_eq_error_iff (k : BitVec 2) (a : Addr) (d : Byte) :
    (∃ e, decode (pack k a d) = .error e) ↔
      k = 0b01#2 ∧ d ≠ 0x00#8 ∨ (k = 0b10#2 ∨ k = 0b11#2) ∧ (a ≠ 0x0#4 ∨ d ≠ 0x00#8) := by
  rcases kind_cases k with rfl | rfl | rfl | rfl
  · simp [decode]
  · rw [decode_pack_kind_read, okIf_eq_error_iff]
    simp
  · rw [decode_pack_kind_edge, okIf_eq_error_iff, Decidable.not_and_iff_not_or_not]
    simp
  · rw [decode_pack_kind_release, okIf_eq_error_iff, Decidable.not_and_iff_not_or_not]
    simp

/-! ### The opcode table -/

theorem pack_and_pack (k k' : BitVec 2) (a a' : Addr) (d d' : Byte) :
    pack k a d &&& pack k' a' d' = pack (k &&& k') (a &&& a') (d &&& d') :=
  BitVec.and_append.trans (congrArg (· ++ (d &&& d')) BitVec.and_append)

theorem pack_eq_iff (k : BitVec 2) (a : Addr) (d : Byte) (w : Opw) :
    pack k a d = w ↔ k = opwKind w ∧ a = opwAddr w ∧ d = opwData w := by
  constructor
  · rintro rfl
    simp
  · rintro ⟨rfl, rfl, rfl⟩
    exact pack_fields w

section
variable (k : BitVec 2) (a : Addr) (d : Byte)

theorem pack_and_mask_all : pack k a d &&& 0x3FFF#14 = pack k a d :=
  (pack_and_pack k (.allOnes 2) a (.allOnes 4) d (.allOnes 8)).trans (by simp only [BitVec.and_allOnes])

theorem pack_and_mask_kind_data : pack k a d &&& 0x30FF#14 = pack k 0x0#4 d :=
  (pack_and_pack k (.allOnes 2) a 0x0#4 d (.allOnes 8)).trans (by simp only [BitVec.and_allOnes, BitVec.and_zero])

theorem pack_and_mask_kind_addr : pack k a d &&& 0x3F00#14 = pack k a 0x00#8 :=
  (pack_and_pack k (.allOnes 2) a (.allOnes 4) d 0x00#8).trans (by simp only [BitVec.and_allOnes, BitVec.and_zero])

theorem pack_and_mask_kind : pack k a d &&& 0x3000#14 = pack k 0x0#4 0x00#8 :=
  (pack_and_pack k (.allOnes 2) a 0x0#4 d 0x00#8).trans (by simp only [BitVec.and_allOnes, BitVec.and_zero])

/-- The rows of the opcode table by the fields of a word: a mask keeps whole fields, all ones or none (R78). -/
theorem firstRow_pack :
    firstRow (pack k a d) opcodeTable =
      if k = 0b00#2 ∧ a = 0x0#4 ∧ d = 0x00#8 then some "NOP"
      else if k = 0b00#2 ∧ a = 0x0#4 ∧ d = 0x01#8 then some "START"
      else if k = 0b00#2 ∧ a = 0x0#4 ∧ d = 0x02#8 then some "CONV_ACK"
      else if k = 0b00#2 ∧ a = 0x0#4 ∧ d = 0x03#8 then some "SRST"
      else if k = 0b01#2 ∧ d = 0x00#8 then some "RD"
      else if k = 0b10#2 ∧ a = 0x0#4 ∧ d = 0x00#8 then some "EDGE"
      else if k = 0b11#2 ∧ a = 0x0#4 ∧ d = 0x00#8 then some "RELEASE"
      else if k = 0b00#2 ∧ a = 0x0#4 then some "CMD_RSVD"
      else if k = 0b00#2 then some "WR_NOCMD"
      else none := by
  simp [firstRow, opcodeTable, pack_and_mask_all, pack_and_mask_kind_data, pack_and_mask_kind_addr, pack_and_mask_kind,
    pack_eq_iff, opwKind, opwAddr, opwData]

end

/-- A reserved command code is none of the four codes of commands (R77). -/
theorem ne_of_reserved {c d : Byte} (hd : 0x04#8 ≤ d) (hc : c < 0x04#8) : d ≠ c := by
  rintro rfl
  exact BitVec.not_lt.2 hd hc

/-- An operation is in its own row of the table. -/
theorem firstRow_encode {i : Instr} (hwf : i.wf = true) : firstRow (encode i) opcodeTable = some i.mnemonic := by
  cases i with
  | nop => rfl
  | start => rfl
  | convAck => rfl
  | srst => rfl
  | cmdRsvd d =>
    have hcode {c : Byte} (hc : c < 0x04#8) : d ≠ c := ne_of_reserved (of_decide_eq_true hwf) hc
    exact (firstRow_pack _ _ _).trans
      (by simp [hcode, Instr.kindField, Instr.addrField, Instr.dataField, Instr.mnemonic])
  | wrNoCmd a d =>
    have ha : a ≠ 0x0#4 := of_decide_eq_true hwf
    exact (firstRow_pack _ _ _).trans (by simp [ha, Instr.kindField, Instr.addrField, Instr.mnemonic])
  | rd a => exact (firstRow_pack _ _ _).trans (by simp [Instr.kindField, Instr.dataField, Instr.mnemonic])
  | edge => rfl
  | release => rfl

/-- A word that does not decode is in no row. -/
theorem firstRow_of_decode_error {w : Opw} {e : Invalid} (h : decode w = .error e) : firstRow w opcodeTable = none := by
  rw [← pack_fields w] at h ⊢
  rw [firstRow_pack]
  rcases (decode_pack_eq_error_iff _ _ _).1 ⟨e, h⟩ with ⟨hk, hd⟩ | ⟨hk | hk, had⟩
  · simp [hk, hd]
  · simpa [hk] using Decidable.not_and_iff_not_or_not.2 had
  · simpa [hk] using Decidable.not_and_iff_not_or_not.2 had

/-- A word that decodes is in the row of its operation. -/
theorem firstRow_of_decode {w : Opw} {i : Instr} (h : decode w = .ok i) :
    firstRow w opcodeTable = some i.mnemonic := by
  obtain ⟨hwf, rfl⟩ := wf_and_encode_of_decode h
  exact firstRow_encode hwf

/-! ### A table word -/

theorem decodeTableWord_eq_some_iff (nbits w : Nat) (i : Instr) :
    decodeTableWord nbits w = some i ↔ decode (tableOpw nbits w) = .ok i := by
  unfold decodeTableWord
  cases h : decode (tableOpw nbits w) with
  | ok j => simp
  | error e => simp

end Sys2Proof

namespace Sys2Proof.Machine

/-- Settles O7: operation by operation. -/
theorem decodeInvertsEncode : Obligations.DecodeInvertsEncode :=
  fun _ hwf => decode_encode hwf

/-- Settles O8: by the kind of the word, whose fields are those of the operation. -/
theorem encodeInvertsDecode : Obligations.EncodeInvertsDecode :=
  fun _ _ h => wf_and_encode_of_decode h

/-- Settles O6: each step of the map is a form of packed word, and an operation is in its own row of the table. -/
theorem decodeFollowsOpcodeMap : Obligations.DecodeFollowsOpcodeMap := by
  rintro k a d w (rfl : w = pack k a d)
  refine ⟨?nop, ?start, ?convAck, ?srst, ?cmdRsvd, ?wrNoCmd, ?rd, ?edge, ?release, ?invalid, ?table⟩
  case nop => rintro rfl rfl rfl; rfl
  case start => rintro rfl rfl rfl; rfl
  case convAck => rintro rfl rfl rfl; rfl
  case srst => rintro rfl rfl rfl; rfl
  case cmdRsvd =>
    rintro rfl rfl hd
    exact decode_pack_cmdRsvd hd
  case wrNoCmd =>
    rintro rfl ha
    exact decode_pack_wrNoCmd ha d
  case rd =>
    rintro rfl rfl
    exact decode_pack_read a
  case edge =>
    intro hw
    rw [hw]
    rfl
  case release =>
    intro hw
    rw [hw]
    rfl
  case invalid => exact (decode_pack_eq_error_iff k a d).2
  case table =>
    cases h : decode (pack k a d) with
    | ok i => exact (firstRow_of_decode h).symm
    | error e => exact (firstRow_of_decode_error h).symm

/-- Settles O5: the decoder, run on each word. -/
theorem specWordsDecode : Obligations.SpecWordsDecode :=
  ⟨rfl, rfl, rfl, rfl, rfl, rfl, rfl, rfl, rfl, rfl, rfl, rfl⟩

/-- Settles O12: the word is first in the queue at the times now on the ports, and `rst` is released. -/
theorem fetchWordRunsThatOperation : Obligations.FetchWordRunsThatOperation := by
  intro s nbits w i hw
  have hrun : ({ s with rst := false } : State).rst = false := rfl
  calc step (s.withFetchWord nbits w)
      = accept (.opw (tableOpw nbits w)) { s with rst := false } := step_cons rfl
    _ = exec i { s with rst := false } := accept_word hrun ((decodeTableWord_eq_some_iff nbits w i).1 hw)

end Sys2Proof.Machine
end

section
/-! PROOF. The commands and the end of the trigger hold, operation by operation (O13 to O15, O17 to O19, O22 to O25). -/

namespace Sys2Proof.Machine

/-! ### START -/

section
variable {p : Params} {us ms : U32} {b : Block}

theorem throttled_eq_false_iff :
    throttled p ms b = false ↔ ¬(b.firstDone = true ∧ ms - b.lastAcq < p.throttleMs) := by
  rw [← throttled_iff, Bool.not_eq_true]

theorem startBlock_of_throttled (h : throttled p ms b = true) :
    startBlock p us ms b = setResult .usedCachedReading b :=
  if_pos h

theorem startBlock_of_busy (h : throttled p ms b = false) (hbusy : busy b = true) :
    startBlock p us ms b = setResult .alreadyAcquiring b := by
  simp [startBlock, h, hbusy]

theorem startBlock_of_idle (h : throttled p ms b = false) (hidle : busy b = false) :
    startBlock p us ms b = trigger us ms b := by
  simp [startBlock, h, hidle]

end

theorem exec_start (s : State) : exec .start s = .next (s.withBlk (startBlock s.cfg s.tsUs s.tsMs s.blk)) := rfl

/-- Settles O14: one equation of the record for each path of START. -/
theorem startThrottlesThenRejectsThenTriggers : Obligations.StartThrottlesThenRejectsThenTriggers := by
  refine ⟨rfl, fun s => ⟨fun hfirst hthr => ?_, fun hthr hbusy => ?_, fun hthr hidle => ?_⟩⟩ <;> rw [exec_start]
  · rw [startBlock_of_throttled ((throttled_iff ..).2 ⟨hfirst, hthr⟩)]
    rfl
  · rw [startBlock_of_busy (throttled_eq_false_iff.2 hthr) ((busy_eq_true_iff _).2 hbusy)]
    rfl
  · rw [startBlock_of_idle (throttled_eq_false_iff.2 hthr) ((busy_eq_false_iff _).2 hidle)]
    rfl

/-- Settles O15: a busy block has issued a trigger, so the interval alone decides whether START is throttled. -/
theorem startWhileBusyOnlyWritesResult : Obligations.StartWhileBusyOnlyWritesResult := by
  intro s hinv hbusy
  have hfirst := hinv.block.busyFirst hbusy
  rw [exec_start]
  by_cases hpast : s.cfg.throttleMs ≤ s.tsMs - s.blk.lastAcq
  · rw [if_pos hpast, startBlock_of_busy (throttled_eq_false_iff.2 fun h => BitVec.not_lt.2 hpast h.2) hbusy]
    rfl
  · rw [if_neg hpast, startBlock_of_throttled ((throttled_iff ..).2 ⟨hfirst, BitVec.not_le.1 hpast⟩)]
    rfl

/-! ### The other commands, writes and reads -/

/-- Settles O13: the three operations answer the state itself, and a write is one of them by its address and code. -/
theorem noEffectOperationsChangeNothing : Obligations.NoEffectOperationsChangeNothing :=
  fun _ _ d => ⟨rfl, rfl, rfl, ofWrite_cmd _, fun hd => (ofWrite_cmd d).trans (command_of_reserved d hd),
    fun ha => ofWrite_of_ne ha d⟩

/-- Settles O17: `ackConversion`, at the code of CONV_ACK. -/
theorem convAckClearsPending : Obligations.ConvAckClearsPending :=
  ⟨rfl, fun _ => rfl⟩

/-- Settles O18: `Block.reset`, at the code of SRST. -/
theorem srstResetsTheRecord : Obligations.SrstResetsTheRecord :=
  ⟨rfl, fun _ => rfl⟩

theorem busy_eq_decide (b : Block) : busy b = decide (b.state = .awaitingResponse ∨ b.state = .receivingData) :=
  Bool.eq_iff_iff.2 ((busy_eq_true_iff b).trans decide_eq_true_iff.symm)

theorem exec_rd (a : Addr) (s : State) : exec (.rd a) s = .next { s with busRdata := regRead a s.blk } := rfl

/-- Settles O19: the register map, address by address. -/
theorem rdAnswersTheRegister : Obligations.RdAnswersTheRegister := by
  refine ⟨decode_pack_read, fun s => ⟨rfl, rfl, rfl, rfl, ?flags, rfl, rfl, rfl, rfl, rfl, rfl, fun a ha => ?reserved⟩⟩
  case flags =>
    rw [← busy_eq_decide]
    rfl
  case reserved =>
    rw [exec_rd, regRead_reserved _ ha]
    rfl

/-! ### RELEASE -/

theorem releaseEnabled_eq_false_iff (p : Params) (us : U32) (b : Block) :
    releaseEnabled p us b = false ↔ b.driveLow = false ∨ us - b.holdStart < p.holdUs := by
  rw [← Bool.not_eq_true, releaseEnabled_iff, Decidable.not_and_iff_not_or_not, Bool.not_eq_true, BitVec.not_le]

theorem exec_release_of_enabled {s : State} (h : releaseEnabled s.cfg s.tsUs s.blk = true) :
    exec .release s = .next (s.withBlk (releaseLine s.tsUs s.blk)) :=
  if_pos h

theorem exec_release_of_not_enabled {s : State} (h : releaseEnabled s.cfg s.tsUs s.blk = false) :
    exec .release s = .next s :=
  if_neg (Bool.eq_false_iff.1 h)

/-- Settles O23: RELEASE is not enabled. -/
theorem releaseNotEnabledIsNoStep : Obligations.ReleaseNotEnabledIsNoStep :=
  fun _ h => exec_release_of_not_enabled ((releaseEnabled_eq_false_iff ..).2 h)

/-- Settles O22: RELEASE enabled and not enabled. -/
theorem releaseArmsEdgeDetection : Obligations.ReleaseArmsEdgeDetection := by
  refine ⟨rfl, fun s => ⟨fun hdrive hover => ?_, fun hoff t ht => ?_⟩⟩
  · exact exec_release_of_enabled ((releaseEnabled_iff ..).2 ⟨hdrive, hover⟩)
  · rw [releaseNotEnabledIsNoStep s hoff] at ht
    cases ht
    rfl

/-- Settles O24: the idle machine takes RELEASE at `releaseDue`, when the hold is over. -/
theorem holdTimerReleasesIdleBlock : Obligations.HoldTimerReleasesIdleBlock := by
  intro s hrst hpending hdrive
  have hover : s.cfg.holdUs ≤ releaseDue s.cfg s.tsUs s.blk - s.blk.holdStart :=
    of_decide_eq_true (holdOver_releaseDue s.cfg s.tsUs s.blk)
  have hidle : idle s = exec .release (s.withTime (releaseDue s.cfg s.tsUs s.blk) s.tsMs) := by
    simp [idle, hrst, hdrive]
  refine ⟨(s.withTime (releaseDue s.cfg s.tsUs s.blk) s.tsMs).withBlk
    (releaseLine (releaseDue s.cfg s.tsUs s.blk) s.blk), ?_, rfl, hover, fun hrunning => ?_, fun hnow => ?_⟩
  · rw [step_eq, stepInput_nil hpending, hidle]
    exact exec_release_of_enabled ((releaseEnabled_iff ..).2 ⟨hdrive, hover⟩)
  · exact if_neg fun h => BitVec.not_lt.2 (of_decide_eq_true h) hrunning
  · exact if_pos (decide_eq_true hnow)

/-! ### The line -/

/-- Settles O25: START's trigger, an enabled RELEASE and SRST by their effects; no other effect writes `driveLow`. -/
theorem lineDrivenFromTriggerToRelease : Obligations.LineDrivenFromTriggerToRelease := by
  refine ⟨fun s hidle hthr => ?_, fun s hdrive hover => ?_, fun s => ⟨_, rfl, rfl⟩, fun i s t h => ?_⟩
  · refine ⟨_, exec_start s, ?_⟩
    rw [startBlock_of_idle (throttled_eq_false_iff.2 hthr) hidle]
    rfl
  · exact ⟨_, exec_release_of_enabled ((releaseEnabled_iff ..).2 ⟨hdrive, hover⟩), rfl⟩
  rcases exec_cases h with ⟨a, rfl, rfl⟩ | ⟨b, rfl, heffect⟩
  · exact .inl rfl
  cases i with
  | nop => exact .inl (congrArg Block.driveLow heffect)
  | cmdRsvd d => exact .inl (congrArg Block.driveLow heffect)
  | wrNoCmd a d => exact .inl (congrArg Block.driveLow heffect)
  | rd a => cases heffect
  | convAck => cases heffect; exact .inl rfl
  | srst => cases heffect; exact .inr (.inr (.inr ⟨rfl, rfl⟩))
  | start =>
    cases heffect
    rcases startBlock_cases s.cfg s.tsUs s.tsMs s.blk with ⟨_, hb⟩ | ⟨_, _, hb⟩ | ⟨hthr, hidle, hb⟩ <;> rw [hb]
    · exact .inl rfl
    · exact .inl rfl
    · exact .inr (.inl ⟨rfl, rfl, hidle, throttled_eq_false_iff.1 hthr, rfl⟩)
  | release =>
    cases heffect
    split
    case isTrue hen =>
      obtain ⟨hdrive, hover⟩ := (releaseEnabled_iff ..).1 hen
      exact .inr (.inr (.inl ⟨rfl, hover, hdrive, rfl⟩))
    case isFalse => exact .inl rfl
  | edge =>
    rcases heffect with ⟨_, rfl⟩ | ⟨_, hb⟩
    · exact .inl rfl
    · exact .inl (applyClass_edgeFrame hb).driveLow

end Sys2Proof.Machine
end

section
/-! PROOF. Two STARTs with other inputs between them (O16), and the first START after SRST or `rst` (O3): what the
inputs between keep, by induction on their list. -/

namespace Sys2Proof.Machine

/-! ### Inputs that bring an operation, and lists of inputs -/

/-- A stimulus that brings an operation has it performed. -/
theorem accept_of_instr {st : Stimulus} {i : Instr} (h : st.instr = some i) (s : State) :
    accept st s = perform i s := by
  cases st with
  | opw w =>
    cases hd : decode w with
    | ok j =>
      obtain rfl : j = i := by simpa [Stimulus.instr, hd] using h
      simp only [accept, hd]
    | error e => simp [Stimulus.instr, hd] at h
  | busWrite a d => cases h; rfl
  | busRead a => cases h; rfl
  | sigLevel level => cases h
  | rstLevel level => cases h

/-- An input that brings START runs it at the input's times. -/
theorem step_of_starts {s : State} {inp : Input} {rest : List Input} (hrst : s.rst = false)
    (hp : s.pending = inp :: rest) (hstart : inp.starts = true) :
    step s = exec .start ((s.withPending rest).withTime inp.nowUs inp.nowMs) := by
  rw [step_eq, stepInput_cons hp, accept_of_instr (of_decide_eq_true hstart)]
  exact perform_of_running .start (s := (s.withPending rest).withTime inp.nowUs inp.nowMs) hrst

/-- What each input of a list keeps, and takes a step for, holds when all of them have arrived. -/
theorem run_inputs {P : State → Prop} {q : List Input} : ∀ {mid : List Input},
    (∀ inp ∈ mid, ∀ s rest, P s → s.pending = inp :: rest → ∃ t, step s = .next t ∧ P t) →
    ∀ {s : State}, P s → s.pending = mid ++ q → ∃ u, run mid.length s = .next u ∧ P u ∧ u.pending = q
  | [], _, s, hs, hp => ⟨s, rfl, hs, hp⟩
  | inp :: mid, hkeep, s, hs, hp => by
    obtain ⟨t, hstep, ht⟩ := hkeep inp (by simp) s (mid ++ q) hs hp
    have hpt : t.pending = mid ++ q := by rw [step_pending hstep, hp, List.cons_append, List.tail_cons]
    obtain ⟨u, hrun, hu⟩ := run_inputs (fun inp' hmem => hkeep inp' (List.mem_cons_of_mem _ hmem)) ht hpt
    exact ⟨u, (run_succ ..).2 ⟨t, hstep, hrun⟩, hu⟩

/-! ### After a trigger -/

/-- The last trigger of a running machine with parameters `p` was issued at `ms` (R30, R33). -/
structure TriggeredAt (p : Params) (ms : U32) (s : State) : Prop where
  inv : Inv s
  running : s.rst = false
  cfg : s.cfg = p
  firstDone : s.blk.firstDone = true
  lastAcq : s.blk.lastAcq = ms

/-- Only START and SRST write when the last trigger was issued (R41). -/
theorem exec_trigger_frame {i : Instr} {s t : State} (hstart : i ≠ .start) (hsrst : i ≠ .srst)
    (he : exec i s = .next t) : t.blk.firstDone = s.blk.firstDone ∧ t.blk.lastAcq = s.blk.lastAcq := by
  obtain ⟨-, -, -, -, -, -, -, -, -, hfirst, -, -, hacq, -⟩ := onlyOwnersWriteFields i s t he
  have hother : ¬(i = .start ∨ i = .srst) := not_or.2 ⟨hstart, hsrst⟩
  exact ⟨Decidable.not_not.1 fun h => hother (hfirst h), Decidable.not_not.1 fun h => hother (hacq h)⟩

section
variable {p : Params} {ms : U32} {s t : State} {inp : Input} {rest : List Input} (h : TriggeredAt p ms s)
include h

theorem TriggeredAt.exec {i : Instr} (hstart : i ≠ .start) (hsrst : i ≠ .srst) (he : exec i s = .next t) :
    TriggeredAt p ms t := by
  obtain ⟨hfirst, hacq⟩ := exec_trigger_frame hstart hsrst he
  obtain ⟨hrst, hcfg, -⟩ := exec_frame he
  have hrun : t.rst = false := hrst.trans h.running
  exact ⟨.of_running (h.inv.block.exec he) hrun, hrun, hcfg.trans h.cfg, hfirst.trans h.firstDone,
    hacq.trans h.lastAcq⟩

theorem TriggeredAt.withSigIn (level : Bool) : TriggeredAt p ms (s.withSigIn level) :=
  ⟨h.inv.withSigIn level, h.running, h.cfg, h.firstDone, h.lastAcq⟩

theorem TriggeredAt.accept (hstart : inp.starts = false) (hreset : inp.resets = false)
    (ha : accept inp.stim s = .next t) : TriggeredAt p ms t := by
  rw [Input.starts_eq_false_iff] at hstart
  obtain ⟨hsrst, hrst⟩ := (Input.resets_eq_false_iff inp).1 hreset
  rcases accept_cases ha with ⟨i, hi, hp⟩ | ⟨-, -, hp⟩ | ⟨level, -, -, rfl⟩ | ⟨level, hlevel, rfl⟩
  · rw [perform_of_running i h.running] at hp
    rw [hi] at hstart hsrst
    exact h.exec (fun e => hstart (congrArg some e)) (fun e => hsrst (congrArg some e)) hp
  · rw [perform_of_running .edge (h.withSigIn false).running] at hp
    exact (h.withSigIn false).exec (i := .edge) nofun nofun hp
  · exact h.withSigIn level
  · cases level with
    | true => exact absurd hlevel hrst
    | false =>
      have hblk : (s.withRst false).blk = s.blk := by simp [h.running]
      exact ⟨h.inv.withRst false, rfl, h.cfg, hblk ▸ h.firstDone, hblk ▸ h.lastAcq⟩

theorem TriggeredAt.step (hp : s.pending = inp :: rest) (hvalid : inp.valid = true) (hstart : inp.starts = false)
    (hreset : inp.resets = false) : ∃ t, Machine.step s = .next t ∧ TriggeredAt p ms t := by
  have harrives : TriggeredAt p ms ((s.withPending rest).withTime inp.nowUs inp.nowMs) :=
    ⟨(h.inv.withPending rest).withTime _ _, h.running, h.cfg, h.firstDone, h.lastAcq⟩
  obtain ⟨t, ht⟩ := harrives.inv.exists_accept hvalid
  exact ⟨t, by rw [step_eq, stepInput_cons hp, ht], harrives.accept hstart hreset ht⟩

/-- The next START, by the time since the trigger (R113). -/
theorem TriggeredAt.step_start (hp : s.pending = inp :: rest) (hstart : inp.starts = true) :
    ∃ t, Machine.step s = .next t ∧
      t.blk.result =
        if inp.nowMs - ms < p.throttleMs then .usedCachedReading
        else if busy s.blk then .alreadyAcquiring else .acquiring := by
  obtain ⟨-, hrst, rfl, hfirst, rfl⟩ := h
  refine ⟨_, step_of_starts hrst hp hstart, ?_⟩
  change (startBlock s.cfg inp.nowUs inp.nowMs s.blk).result = _
  rcases startBlock_cases s.cfg inp.nowUs inp.nowMs s.blk with ⟨hthr, hb⟩ | ⟨hthr, hbusy, hb⟩ | ⟨hthr, hbusy, hb⟩
  · rw [hb, if_pos ((throttled_iff ..).1 hthr).2]
    rfl
  · rw [hb, if_neg fun hlt => throttled_eq_false_iff.1 hthr ⟨hfirst, hlt⟩, if_pos hbusy]
    rfl
  · rw [hb, if_neg fun hlt => throttled_eq_false_iff.1 hthr ⟨hfirst, hlt⟩, hbusy]
    rfl

end

/-- Settles O16: the inputs between the two STARTs keep when the trigger was issued, which is all the second looks at
beside the block's state. -/
theorem throttleBetweenStarts : Obligations.ThrottleBetweenStarts := by
  intro s first second mid rest hinv hrst hp hfirst hsecond hidle hthr hmid
  have hbusy : busy s.blk = false := (busy_eq_false_iff _).2 hidle
  have hstep : step s = .next (((s.withPending (mid ++ second :: rest)).withTime first.nowUs first.nowMs).withBlk
      (trigger first.nowUs first.nowMs s.blk)) := by
    rw [step_of_starts hrst hp hfirst, exec_start, ← startBlock_of_idle (throttled_eq_false_iff.2 hthr) hbusy]
    rfl
  have hafter := TriggeredAt.mk (hinv.step hstep) hrst rfl rfl rfl
  obtain ⟨u, hrun, hu, hpu⟩ := run_inputs (fun inp hmem _ _ h hpending =>
    have ⟨hvalid, hstart, hreset⟩ := hmid inp hmem
    h.step hpending hvalid hstart hreset) hafter rfl
  obtain ⟨v, hv, hresult⟩ := hu.step_start hpu hsecond
  exact ⟨_, u, v, hstep, rfl, hrun, hv, hresult⟩

/-! ### After a reset -/

theorem perform_srst (s : State) : perform .srst s = .next (s.withBlk Block.reset) := by
  cases hrst : s.rst with
  | false => exact perform_of_running .srst hrst
  | true => exact perform_in_reset .srst hrst

/-- SRST and `rst` leave the record at reset (R109, R230). -/
theorem step_of_resets {s : State} {inp : Input} {rest : List Input} (hp : s.pending = inp :: rest)
    (hreset : inp.resets = true) : ∃ t, step s = .next t ∧ t.blk = Block.reset := by
  rw [step_eq, stepInput_cons hp]
  rw [Input.resets, Bool.or_eq_true, decide_eq_true_iff, decide_eq_true_iff] at hreset
  rcases hreset with hsrst | hlevel
  · rw [accept_of_instr hsrst, perform_srst]
    exact ⟨_, rfl, rfl⟩
  · rw [hlevel]
    exact ⟨_, rfl, rfl⟩

section
variable {s t : State} (h : s.blk = Block.reset)
include h

/-- No operation but START changes a record at reset. -/
theorem exec_of_reset {i : Instr} (hstart : i ≠ .start) (he : exec i s = .next t) : t.blk = Block.reset := by
  by_cases hsrst : i = .srst
  · subst hsrst
    cases he
    rfl
  · have hrest : s.blk.Resting := h ▸ ⟨rfl, rfl⟩
    rcases hrest.exec hstart hsrst he with hb | ⟨-, hb⟩ <;> rw [hb, h]
    rfl

theorem perform_of_reset {i : Instr} (hstart : i ≠ .start) (hp : perform i s = .next t) : t.blk = Block.reset := by
  cases hrst : s.rst with
  | false =>
    rw [perform_of_running i hrst] at hp
    exact exec_of_reset h hstart hp
  | true =>
    rw [perform_in_reset i hrst] at hp
    cases hp
    exact heldInReset_blk i s

theorem accept_of_reset {inp : Input} (hstart : inp.starts = false) (ha : accept inp.stim s = .next t) :
    t.blk = Block.reset := by
  rw [Input.starts_eq_false_iff] at hstart
  rcases accept_cases ha with ⟨i, hi, hp⟩ | ⟨-, -, hp⟩ | ⟨level, -, -, rfl⟩ | ⟨level, -, rfl⟩
  · exact perform_of_reset h (fun e => hstart (hi.trans (congrArg some e))) hp
  · exact perform_of_reset (s := s.withSigIn false) (i := .edge) h nofun hp
  · exact h
  · rw [State.withRst_blk, h, ite_self]

/-- No input but START changes a record at reset, whether or not `rst` is asserted. -/
theorem step_of_reset {inp : Input} {rest : List Input} (hp : s.pending = inp :: rest) (hvalid : inp.valid = true)
    (hstart : inp.starts = false) : ∃ t, step s = .next t ∧ t.blk = Block.reset := by
  rw [step_eq, stepInput_cons hp]
  have harrives : ((s.withPending rest).withTime inp.nowUs inp.nowMs).blk = Block.reset := h
  obtain ⟨t, ht⟩ := (Inv.of_reset harrives).exists_accept hvalid
  exact ⟨t, ht, accept_of_reset harrives hstart ht⟩

/-- From a record at reset START issues a trigger (R101, corner case (a)). -/
theorem exec_start_of_reset :
    exec .start s = .next { s with
      blk := { Block.reset with
        result := .acquiring, state := .awaitingResponse, driveLow := true, firstDone := true,
        holdStart := s.tsUs, lastAcq := s.tsMs } } := by
  rw [exec_start, h, startBlock_of_idle rfl rfl]
  rfl

end

/-- Settles O3: the inputs between keep the record at reset, from which START triggers. -/
theorem firstStartAfterResetTriggers : Obligations.FirstStartAfterResetTriggers := by
  refine ⟨fun s t us ms hsrst => ?_, fun s first second mid rest hp hreset hstart hmid => ?_⟩
  · cases hsrst
    exact exec_start_of_reset rfl
  · obtain ⟨t, hstep, ht⟩ := step_of_resets hp hreset
    have hpt : t.pending = mid ++ second :: rest := by rw [step_pending hstep, hp, List.tail_cons]
    obtain ⟨u, hrun, hu, hpu⟩ := run_inputs (P := fun s => s.blk = Block.reset) (fun inp hmem _ _ h hpending =>
      have ⟨hvalid, hquiet⟩ := hmid inp hmem
      step_of_reset h hpending hvalid hquiet) ht hpt
    refine ⟨t, u, hstep, hrun, hu, hpu, fun hrst => ?_⟩
    rw [step_of_starts hrst hpu hstart]
    exact exec_start_of_reset (s := (u.withPending rest).withTime second.nowUs second.nowMs) hu

end Sys2Proof.Machine
end

section
/-! PROOF. The transition table (O40): what each operation leaves of the four fields that R212 is about. -/

namespace Sys2Proof.Machine

/-- The fields that the transition table is about (R212). -/
abbrev Block.row (b : Block) : AcqState × Bool × Bool × Status := (b.state, b.driveLow, b.armed, b.status)

/-- What an EDGE of a class leaves of them: the fortieth data bit decides by the checksum, and any other leaves them as
they are (R130, R161 to R165). -/
def EdgeClass.row (c : EdgeClass) (b : Block) : AcqState × Bool × Bool × Status :=
  match c with
  | .stall => (.stopped, b.driveLow, false, .isrTimeout)
  | .jitter => b.row
  | .response => (.receivingData, b.driveLow, b.armed, b.status)
  | .responseTimeout => (.stopped, b.driveLow, false, .responseTimeout)
  | .dataBit one =>
    if b.byteCur = 4#3 ∧ b.bitCur = 7#3 then
      if shiftBit one b.frame.b4 = b.frame.b0 + b.frame.b1 + b.frame.b2 + b.frame.b3 then
        (.acquired, b.driveLow, false, .ok)
      else (.stopped, b.driveLow, false, .checksumError)
    else b.row
  | .glitch => (.stopped, b.driveLow, false, .deltaGlitch)
  | .dataTimeout => (.stopped, b.driveLow, false, .dataTimeout)
  | .terminal => b.row

theorem shiftIn_row {one : Bool} {b b' : Block} (h : shiftIn one b = some b') :
    b'.row = (EdgeClass.dataBit one).row b := by
  obtain ⟨g, hg, rfl⟩ := (shiftIn_eq_some_iff ..).1 h
  rw [EdgeClass.row]
  rcases advanceCursor_cases { b with frame := g } with ⟨hbit, he⟩ | ⟨-, hnext, he⟩ | ⟨hbit, hlast, he⟩ <;> rw [he]
  · rw [if_neg fun hend => absurd hbit (by rw [hend.2]; decide)]
  · rw [if_neg fun hend => hnext (by rw [hend.1]; rfl)]
  · dsimp only at hbit hlast
    have hend : b.byteCur = 4#3 ∧ b.bitCur = 7#3 := by constructor <;> bv_omega
    rw [hend.1] at hg
    obtain rfl : { b.frame with b4 := shiftBit one b.frame.b4 } = g := Option.some.inj hg
    rw [if_pos hend]
    rcases completeFrame_cases { b with
        frame := { b.frame with b4 := shiftBit one b.frame.b4 }, bitCur := 0, byteCur := b.byteCur + 1 } with
      ⟨hsum, hc⟩ | ⟨hsum, hc⟩ <;> rw [hc]
    · exact (if_pos hsum).symm
    · exact (if_neg hsum).symm

theorem applyClass_row {c : EdgeClass} {us : U32} {b b' : Block} (h : applyClass c us b = some b') :
    b'.row = c.row b := by
  cases c with
  | dataBit one => exact shiftIn_row (b := setLastEdge us b) h
  | stall => cases h; rfl
  | jitter => cases h; rfl
  | response => cases h; rfl
  | responseTimeout => cases h; rfl
  | glitch => cases h; rfl
  | dataTimeout => cases h; rfl
  | terminal => cases h; rfl

/-- From the invariant an armed EDGE completes, with the row of its class. -/
theorem BlockInv.exists_edge_row {s : State} (h : BlockInv s.blk) (harmed : s.blk.armed = true) :
    ∃ t, Machine.exec .edge s = .next t ∧ t.blk.row = s.edgeClass.row s.blk := by
  obtain ⟨b, hb⟩ := h.exists_applyClass (c := s.edgeClass) (classify_arisesIn ..) s.tsUs
  exact ⟨_, execEdge_of_applyClass harmed hb, applyClass_row hb⟩

theorem exec_edge_of_disarmed {s : State} (h : s.blk.armed = false) : exec .edge s = .next s :=
  if_neg (Bool.eq_false_iff.1 h)

/-- Edges are not processed while the block is idle (R35 I1). -/
theorem BlockInv.disarmed_of_idle {b : Block} (h : BlockInv b) (hidle : busy b = false) : b.armed = false :=
  Bool.eq_false_iff.2 fun harmed => absurd (h.armedBusy harmed).1 (Bool.eq_false_iff.1 hidle)

/-- Settles O40: START by its three paths, RELEASE by its condition, an armed EDGE by its class. -/
theorem transitionTable : Obligations.TransitionTable := by
  intro i s hinv
  have hblock := hinv.block
  cases i with
  | nop => exact ⟨_, rfl, rfl⟩
  | convAck => exact ⟨_, rfl, rfl⟩
  | cmdRsvd c => exact ⟨_, rfl, rfl⟩
  | rd a => exact ⟨_, rfl, rfl⟩
  | wrNoCmd a c => exact ⟨_, rfl, rfl⟩
  | srst => exact ⟨_, rfl, rfl⟩
  | start =>
    refine ⟨_, exec_start s, ?_⟩
    dsimp only [State.withBlk_blk]
    rcases startBlock_cases s.cfg s.tsUs s.tsMs s.blk with ⟨hthr, he⟩ | ⟨hthr, hbusy, he⟩ | ⟨hthr, hidle, he⟩ <;>
      rw [he]
    · rw [if_pos ((throttled_iff ..).1 hthr)]
      rfl
    · rw [if_neg (throttled_eq_false_iff.1 hthr), if_pos hbusy]
      rfl
    · rw [if_neg (throttled_eq_false_iff.1 hthr), if_neg (Bool.eq_false_iff.1 hidle), trigger_armed,
        hblock.disarmed_of_idle hidle]
      rfl
  | release =>
    by_cases hen : s.blk.driveLow = true ∧ s.cfg.holdUs ≤ s.tsUs - s.blk.holdStart
    · refine ⟨_, exec_release_of_enabled ((releaseEnabled_iff ..).2 hen), ?_⟩
      dsimp only [State.withBlk_blk]
      rw [if_pos hen, releaseLine_state, (hblock.driveLowAwaiting hen.1).1]
      rfl
    · have hoff : releaseEnabled s.cfg s.tsUs s.blk = false :=
        Bool.eq_false_iff.2 fun he => hen ((releaseEnabled_iff ..).1 he)
      exact ⟨_, exec_release_of_not_enabled hoff, (if_neg hen).symm⟩
  | edge =>
    by_cases hoff : s.blk.armed = false
    · exact ⟨s, exec_edge_of_disarmed hoff, (if_pos hoff).symm⟩
    have harmed : s.blk.armed = true := Bool.not_eq_false _ ▸ hoff
    obtain ⟨hbusy, hdrive⟩ := hblock.armedBusy harmed
    obtain ⟨t, ht, hrow⟩ := hblock.exists_edge_row harmed
    refine ⟨t, ht, hrow.trans ?_⟩
    dsimp only
    rw [State.edgeClass, edgeDelta, elapsed, if_neg hoff]
    rcases classify_cases s.cfg s.blk.state (s.tsUs - s.blk.lastEdge) with ⟨hstall, hc⟩ | ⟨hstall, hst, hjit, hc⟩ |
      ⟨hstall, hst, hjit, hresp, hc⟩ | ⟨hstall, hst, hjit, hresp, hc⟩ | ⟨hstall, hst, hwin, hc⟩ |
      ⟨hstall, hst, hwin, hgl, hc⟩ | ⟨hstall, hst, hwin, hgl, hc⟩ | ⟨-, hst, hc⟩ <;> rw [hc]
    · simp [EdgeClass.row, hstall, hdrive]
    · simp [EdgeClass.row, hstall, hst, hjit]
    · simp [EdgeClass.row, hstall, hst, hjit, hresp, hdrive, harmed]
    · simp [EdgeClass.row, hstall, hst, hjit, hresp, hdrive]
    · simp [EdgeClass.row, Block.row, hstall, hst, hwin, hdrive, harmed, shiftBit_decide]
    · simp [EdgeClass.row, hstall, hst, hwin, hgl, hdrive]
    · simp [EdgeClass.row, hstall, hst, hwin, hgl, hdrive]
    · exact absurd hbusy (Bool.eq_false_iff.1 ((busy_eq_false_iff _).2 hst.symm))

end Sys2Proof.Machine
end

section
/-! PROOF. Operations at one time, in either order (O51, O52, O57, O60): what each leaves of what the other looks at. -/

namespace Sys2Proof.Machine

/-- Two operations at one time end in the same state in either order (R207). -/
def CommuteAt (i j : Instr) (s : State) : Prop :=
  ∃ u u' v, exec i s = .next u ∧ exec j u = .next v ∧ exec j s = .next u' ∧ exec i u' = .next v

theorem CommuteAt.symm {i j : Instr} {s : State} : CommuteAt i j s → CommuteAt j i s :=
  fun ⟨u, u', v, hi, hj', hj, hi'⟩ => ⟨u', u, v, hj, hi', hi, hj'⟩

/-- An operation that is no step before and after another commutes with it. -/
theorem CommuteAt.of_no_step {i j : Instr} {s u : State} (hi : exec i s = .next u) (hj : exec j s = .next s)
    (hj' : exec j u = .next u) : CommuteAt i j s :=
  ⟨u, s, u, hi, hj', hj, hi⟩

/-! ### What an EDGE keeps and does not look at -/

/-- An EDGE replaces the record, within its frame (R41). -/
theorem exec_edge_frame {s t : State} (h : exec .edge s = .next t) : ∃ b, t = s.withBlk b ∧ EdgeFrame s.blk b := by
  rcases execEdge_cases h with ⟨-, rfl⟩ | ⟨b, -, hb, rfl⟩
  · exact ⟨t.blk, rfl, .refl _⟩
  · exact ⟨b, rfl, applyClass_edgeFrame hb⟩

section
variable {c : EdgeClass} {us : U32} {b b' : Block}

theorem completeFrame_of_ok (h : b.frame.checksumOk = true) :
    completeFrame b = { b with armed := false, status := .ok, state := .acquired, convPending := true } :=
  if_pos h

theorem completeFrame_of_not_ok (h : ¬ b.frame.checksumOk = true) :
    completeFrame b = { b with armed := false, status := .checksumError, state := .stopped } :=
  if_neg h

theorem advanceCursor_of_bit (h : b.bitCur < 7#3) : advanceCursor b = { b with bitCur := b.bitCur + 1 } :=
  if_pos h

theorem advanceCursor_of_byte (hbit : ¬ b.bitCur < 7#3) (hbyte : b.byteCur + 1 ≠ 5#3) :
    advanceCursor b = { b with bitCur := 0, byteCur := b.byteCur + 1 } :=
  (if_neg hbit).trans (if_neg hbyte)

theorem advanceCursor_of_end (hbit : ¬ b.bitCur < 7#3) (hbyte : b.byteCur + 1 = 5#3) :
    advanceCursor b = completeFrame { b with bitCur := 0, byteCur := b.byteCur + 1 } :=
  (if_neg hbit).trans (if_pos hbyte)

theorem completeFrame_setResult (r : StartResult) (b : Block) :
    completeFrame (setResult r b) = setResult r (completeFrame b) := by
  by_cases h : b.frame.checksumOk = true
  · rw [completeFrame_of_ok (b := setResult r b) h, completeFrame_of_ok h]
    rfl
  · rw [completeFrame_of_not_ok (b := setResult r b) h, completeFrame_of_not_ok h]
    rfl

theorem advanceCursor_setResult (r : StartResult) (b : Block) :
    advanceCursor (setResult r b) = setResult r (advanceCursor b) := by
  by_cases hbit : b.bitCur < 7#3
  · rw [advanceCursor_of_bit (b := setResult r b) hbit, advanceCursor_of_bit hbit]
    rfl
  by_cases hbyte : b.byteCur + 1 = 5#3
  · rw [advanceCursor_of_end (b := setResult r b) hbit hbyte, advanceCursor_of_end hbit hbyte]
    exact completeFrame_setResult r { b with bitCur := 0, byteCur := b.byteCur + 1 }
  · rw [advanceCursor_of_byte (b := setResult r b) hbit hbyte, advanceCursor_of_byte hbit hbyte]
    rfl

theorem applyClass_setResult (r : StartResult) (h : applyClass c us b = some b') :
    applyClass c us (setResult r b) = some (setResult r b') := by
  cases c with
  | dataBit one =>
    obtain ⟨f, hf, rfl⟩ := (shiftIn_eq_some_iff ..).1 h
    exact (shiftIn_eq_some_iff ..).2 ⟨f, hf, (advanceCursor_setResult r _).symm⟩
  | stall => cases h; rfl
  | jitter => cases h; rfl
  | response => cases h; rfl
  | responseTimeout => cases h; rfl
  | glitch => cases h; rfl
  | dataTimeout => cases h; rfl
  | terminal => cases h; rfl

theorem ackConversion_completeFrame (b : Block) :
    ackConversion (completeFrame (ackConversion b)) = ackConversion (completeFrame b) := by
  by_cases h : b.frame.checksumOk = true
  · rw [completeFrame_of_ok (b := ackConversion b) h, completeFrame_of_ok h]
    rfl
  · rw [completeFrame_of_not_ok (b := ackConversion b) h, completeFrame_of_not_ok h]
    rfl

theorem ackConversion_advanceCursor (b : Block) :
    ackConversion (advanceCursor (ackConversion b)) = ackConversion (advanceCursor b) := by
  by_cases hbit : b.bitCur < 7#3
  · rw [advanceCursor_of_bit (b := ackConversion b) hbit, advanceCursor_of_bit hbit]
    rfl
  by_cases hbyte : b.byteCur + 1 = 5#3
  · rw [advanceCursor_of_end (b := ackConversion b) hbit hbyte, advanceCursor_of_end hbit hbyte]
    exact ackConversion_completeFrame { b with bitCur := 0, byteCur := b.byteCur + 1 }
  · rw [advanceCursor_of_byte (b := ackConversion b) hbit hbyte, advanceCursor_of_byte hbit hbyte]
    rfl

/-- An EDGE does not look at what CONV_ACK clears. -/
theorem exists_applyClass_ackConversion (h : applyClass c us b = some b') :
    ∃ b'', applyClass c us (ackConversion b) = some b'' ∧ ackConversion b'' = ackConversion b' := by
  cases c with
  | dataBit one =>
    obtain ⟨f, hf, rfl⟩ := (shiftIn_eq_some_iff ..).1 h
    exact ⟨_, (shiftIn_eq_some_iff ..).2 ⟨f, hf, rfl⟩, ackConversion_advanceCursor { setLastEdge us b with frame := f }⟩
  | stall => cases h; exact ⟨_, rfl, rfl⟩
  | jitter => cases h; exact ⟨_, rfl, rfl⟩
  | response => cases h; exact ⟨_, rfl, rfl⟩
  | responseTimeout => cases h; exact ⟨_, rfl, rfl⟩
  | glitch => cases h; exact ⟨_, rfl, rfl⟩
  | dataTimeout => cases h; exact ⟨_, rfl, rfl⟩
  | terminal => cases h; exact ⟨_, rfl, rfl⟩

/-- Only a good frame's last bit makes a block Acquired, and it sets `convPending` (R164). -/
theorem convPending_of_acquired (h : applyClass c us b = some b') (hbefore : b.state ≠ .acquired)
    (hafter : b'.state = .acquired) : b'.convPending = true := by
  cases c with
  | dataBit one =>
    obtain ⟨f, -, rfl⟩ := (shiftIn_eq_some_iff ..).1 h
    rcases advanceCursor_cases { setLastEdge us b with frame := f } with ⟨-, he⟩ | ⟨-, -, he⟩ | ⟨-, -, he⟩ <;>
      rw [he] at hafter ⊢
    · exact absurd hafter hbefore
    · exact absurd hafter hbefore
    · rcases completeFrame_cases { setLastEdge us b with frame := f, bitCur := 0, byteCur := b.byteCur + 1 } with
        ⟨-, hc⟩ | ⟨-, hc⟩
      · exact congrArg Block.convPending hc
      · exact nomatch (congrArg Block.state hc).symm.trans hafter
  | jitter => cases h; exact absurd hafter hbefore
  | terminal => cases h; exact absurd hafter hbefore
  | stall => cases h; cases hafter
  | response => cases h; cases hafter
  | responseTimeout => cases h; cases hafter
  | glitch => cases h; cases hafter
  | dataTimeout => cases h; cases hafter

end

/-- An EDGE does not look at START's answer. -/
theorem exec_edge_setResult {s t : State} (r : StartResult) (h : exec .edge s = .next t) :
    exec .edge (s.withBlk (setResult r s.blk)) = .next (t.withBlk (setResult r t.blk)) := by
  rcases execEdge_cases h with ⟨hoff, rfl⟩ | ⟨b, harmed, hb, rfl⟩
  · exact exec_edge_of_disarmed (s := t.withBlk (setResult r t.blk)) hoff
  · exact execEdge_of_applyClass (s := s.withBlk (setResult r s.blk)) harmed (applyClass_setResult r hb)

/-- An EDGE does not look at what a read answered. -/
theorem exec_edge_withRdata {s t : State} (v : Byte) (h : exec .edge s = .next t) :
    exec .edge (s.withRdata v) = .next (t.withRdata v) := by
  rcases execEdge_cases h with ⟨hoff, rfl⟩ | ⟨b, harmed, hb, rfl⟩
  · exact exec_edge_of_disarmed (s := t.withRdata v) hoff
  · exact execEdge_of_applyClass (s := s.withRdata v) harmed hb

/-! ### SRST -/

/-- SRST commutes with every operation that writes the record alone and is no step on one at reset. -/
theorem CommuteAt.srst {j : Instr} {s : State} {b : Block} (hj : exec j s = .next (s.withBlk b))
    (hreset : exec j (s.withBlk Block.reset) = .next (s.withBlk Block.reset)) : CommuteAt .srst j s :=
  ⟨_, _, _, rfl, hreset, hj, rfl⟩

/-! ### START -/

/-- START is throttled or the block is busy, so that START issues no trigger (R101). -/
def TurnsAway (p : Params) (ms : U32) (b : Block) : Prop := throttled p ms b = true ∨ busy b = true

/-- What a START that issues no trigger answers (R101). -/
def turnedAwayResult (p : Params) (ms : U32) (b : Block) : StartResult :=
  if throttled p ms b then .usedCachedReading else .alreadyAcquiring

theorem startBlock_of_turnsAway {p : Params} {us ms : U32} {b : Block} (h : TurnsAway p ms b) :
    startBlock p us ms b = setResult (turnedAwayResult p ms b) b := by
  unfold turnedAwayResult
  cases hthr : throttled p ms b with
  | true => exact startBlock_of_throttled hthr
  | false => exact startBlock_of_busy hthr (h.resolve_left (Bool.eq_false_iff.1 hthr))

theorem throttled_congr {p : Params} {ms : U32} {b b' : Block} (hfirst : b'.firstDone = b.firstDone)
    (hacq : b'.lastAcq = b.lastAcq) : throttled p ms b' = throttled p ms b := by
  rw [throttled, hfirst, hacq, ← throttled]

/-- A START that issues no trigger commutes with an operation that does not look at its answer and after which it still
issues none. -/
theorem CommuteAt.start {j : Instr} {s : State} {b : Block} (hj : exec j s = .next (s.withBlk b))
    (hj' : ∀ r, exec j (s.withBlk (setResult r s.blk)) = .next (s.withBlk (setResult r b)))
    (hfirst : b.firstDone = s.blk.firstDone) (hacq : b.lastAcq = s.blk.lastAcq)
    (haway : throttled s.cfg s.tsMs s.blk = true ∨ busy s.blk = true ∧ busy b = true) : CommuteAt .start j s := by
  have hthr : throttled s.cfg s.tsMs b = throttled s.cfg s.tsMs s.blk := throttled_congr hfirst hacq
  have hbefore : TurnsAway s.cfg s.tsMs s.blk := haway.imp_right And.left
  have hafter : TurnsAway s.cfg s.tsMs b := haway.imp hthr.trans And.right
  have hresult : turnedAwayResult s.cfg s.tsMs b = turnedAwayResult s.cfg s.tsMs s.blk := by
    rw [turnedAwayResult, hthr, ← turnedAwayResult]
  refine ⟨_, _, _, ?_, hj' (turnedAwayResult s.cfg s.tsMs s.blk), hj, ?_⟩
  · rw [exec_start, startBlock_of_turnsAway hbefore]
  · exact congrArg (fun c => Host.Outcome.next (s.withBlk c))
      ((startBlock_of_turnsAway hafter).trans (by rw [hresult]))

theorem startBlock_armed (p : Params) (us ms : U32) (b : Block) : (startBlock p us ms b).armed = b.armed := by
  rcases startBlock_cases p us ms b with ⟨-, h⟩ | ⟨-, -, h⟩ | ⟨-, -, h⟩ <;> rw [h] <;> rfl

/-- START does not enable RELEASE, unless it issues a trigger with a hold of zero. -/
theorem releaseEnabled_startBlock {p : Params} {us ms : U32} {b : Block} (hoff : releaseEnabled p us b = false)
    (hhold : 0#32 < p.holdUs ∨ TurnsAway p ms b) : releaseEnabled p us (startBlock p us ms b) = false := by
  rcases startBlock_cases p us ms b with ⟨-, h⟩ | ⟨-, -, h⟩ | ⟨hthr, hidle, h⟩ <;> rw [h]
  · exact hoff
  · exact hoff
  · have haway : ¬ TurnsAway p ms b := by simp [TurnsAway, hthr, hidle]
    exact (releaseEnabled_eq_false_iff ..).2 (.inr (by simpa using hhold.resolve_right haway))

/-! ### RELEASE -/

theorem exists_exec_release (s : State) : ∃ b, exec .release s = .next (s.withBlk b) := by
  cases hen : releaseEnabled s.cfg s.tsUs s.blk with
  | true => exact ⟨_, exec_release_of_enabled hen⟩
  | false => exact ⟨s.blk, exec_release_of_not_enabled hen⟩

/-- An EDGE at the time of a RELEASE is jitter, unless the ceiling is zero. -/
theorem edgeClass_releaseLine {s : State} (hstate : s.blk.state = .awaitingResponse) :
    (s.withBlk (releaseLine s.tsUs s.blk)).edgeClass =
      if 0#32 < s.cfg.tJitter then .jitter else .responseTimeout := by
  simp [State.edgeClass, edgeDelta, elapsed, classify, classifyAwaiting, hstate]

/-! ### Where the pairs commute -/

section
variable {s : State}

theorem commuteAt_start_release (h : BlockInv s.blk) (hhold : 0#32 < s.cfg.holdUs ∨ TurnsAway s.cfg s.tsMs s.blk) :
    CommuteAt .start .release s := by
  cases hen : releaseEnabled s.cfg s.tsUs s.blk with
  | true =>
    obtain ⟨hdrive, -⟩ := (releaseEnabled_iff ..).1 hen
    have hbusy : busy s.blk = true := (busy_eq_true_iff _).2 (.inl (h.driveLowAwaiting hdrive).1)
    exact .start (exec_release_of_enabled hen)
      (fun r => exec_release_of_enabled (s := s.withBlk (setResult r s.blk)) hen) rfl rfl (.inr ⟨hbusy, hbusy⟩)
  | false =>
    exact .of_no_step (exec_start s) (exec_release_of_not_enabled hen)
      (exec_release_of_not_enabled (releaseEnabled_startBlock hen hhold))

theorem commuteAt_start_edge_of_disarmed (hoff : s.blk.armed = false) : CommuteAt .start .edge s :=
  .of_no_step (exec_start s) (exec_edge_of_disarmed hoff)
    (exec_edge_of_disarmed ((startBlock_armed s.cfg s.tsUs s.tsMs s.blk).trans hoff))

theorem commuteAt_start_edge_of_turnsAway {t : State} (he : exec .edge s = .next t)
    (haway : throttled s.cfg s.tsMs s.blk = true ∨ busy s.blk = true ∧ busy t.blk = true) :
    CommuteAt .start .edge s := by
  obtain ⟨b, rfl, hframe⟩ := exec_edge_frame he
  exact .start he (fun r => exec_edge_setResult r he) hframe.firstDone hframe.lastAcq haway

theorem commuteAt_release_edge_of_not_enabled (h : BlockInv s.blk) (hoff : releaseEnabled s.cfg s.tsUs s.blk = false) :
    CommuteAt .release .edge s := by
  obtain ⟨t, he⟩ := h.exists_exec .edge
  obtain ⟨b, rfl, hframe⟩ := exec_edge_frame he
  have hoff' : releaseEnabled s.cfg s.tsUs b = false := by
    rw [releaseEnabled, holdOver, hframe.driveLow, hframe.holdStart]
    exact hoff
  exact .symm (.of_no_step he (exec_release_of_not_enabled hoff) (exec_release_of_not_enabled hoff'))

theorem commuteAt_release_edge_of_enabled (h : BlockInv s.blk) (hen : releaseEnabled s.cfg s.tsUs s.blk = true)
    (hjitter : 0#32 < s.cfg.tJitter) : CommuteAt .release .edge s := by
  obtain ⟨hstate, hoff⟩ := h.driveLowAwaiting ((releaseEnabled_iff ..).1 hen).1
  have hclass : applyClass (s.withBlk (releaseLine s.tsUs s.blk)).edgeClass s.tsUs (releaseLine s.tsUs s.blk) =
      some (releaseLine s.tsUs s.blk) := by
    rw [edgeClass_releaseLine hstate, if_pos hjitter]
    rfl
  exact .of_no_step (exec_release_of_enabled hen) (exec_edge_of_disarmed hoff) (execEdge_of_applyClass rfl hclass)

end

/-- Settles O51: SRST by itself, and each other pair by whether its operations take a step. -/
theorem simultaneousOperationsCommute : Obligations.SimultaneousOperationsCommute := by
  intro s hinv hrst
  have hblock := hinv.block
  obtain ⟨t, hedge⟩ := hblock.exists_exec .edge
  refine ⟨?srstEdge, ?srstRelease, fun hcase => ?startRelease, fun hcase => ?startEdge, fun hcase => ?releaseEdge⟩
  case srstEdge =>
    obtain ⟨b, rfl, -⟩ := exec_edge_frame hedge
    exact CommuteAt.srst hedge (exec_edge_of_disarmed rfl)
  case srstRelease =>
    obtain ⟨b, hrelease⟩ := exists_exec_release s
    exact CommuteAt.srst hrelease (exec_release_of_not_enabled rfl)
  case startRelease =>
    refine commuteAt_start_release hblock (hcase.imp_right fun haway => ?_)
    exact haway.symm.imp_left (throttled_iff ..).2
  case startEdge =>
    rcases hcase with hthr | hoff | ⟨t, hedge, hbusy⟩
    · exact commuteAt_start_edge_of_turnsAway hedge (.inl ((throttled_iff ..).2 hthr))
    · exact commuteAt_start_edge_of_disarmed hoff
    · cases harmed : s.blk.armed with
      | false => exact commuteAt_start_edge_of_disarmed harmed
      | true => exact commuteAt_start_edge_of_turnsAway hedge (.inr ⟨(hblock.armedBusy harmed).1, hbusy⟩)
  case releaseEdge =>
    cases hen : releaseEnabled s.cfg s.tsUs s.blk with
    | false => exact commuteAt_release_edge_of_not_enabled hblock hen
    | true =>
      refine commuteAt_release_edge_of_enabled hblock hen (hcase.resolve_right fun hoff => ?_)
      exact Bool.eq_false_iff.1 ((releaseEnabled_eq_false_iff ..).2 hoff) hen

/-! ### Where they do not -/

/-- START first is turned away, and EDGE first leaves it a block to trigger. -/
theorem start_edge_orders {s u' : State} (hinv : Inv s)
    (hthr : ¬(s.blk.firstDone = true ∧ s.tsMs - s.blk.lastAcq < s.cfg.throttleMs)) (harmed : s.blk.armed = true)
    (hedge : exec .edge s = .next u') (hidle : busy u'.blk = false) :
    ∃ u v v', exec .start s = .next u ∧ exec .edge u = .next v ∧ exec .start u' = .next v' ∧
      v.blk.result = .alreadyAcquiring ∧ v.blk.state = u'.blk.state ∧
      v'.blk.result = .acquiring ∧ v'.blk.state = .awaitingResponse := by
  obtain ⟨hbusy, -⟩ := hinv.block.armedBusy harmed
  have hbefore : throttled s.cfg s.tsMs s.blk = false := throttled_eq_false_iff.2 hthr
  have hstart : exec .start s = .next (s.withBlk (setResult .alreadyAcquiring s.blk)) := by
    rw [exec_start, startBlock_of_busy hbefore hbusy]
  have hlater := exec_edge_setResult .alreadyAcquiring hedge
  obtain ⟨b, rfl, hframe⟩ := exec_edge_frame hedge
  have hafter : throttled s.cfg s.tsMs b = false := (throttled_congr hframe.firstDone hframe.lastAcq).trans hbefore
  have htrigger : exec .start (s.withBlk b) = .next (s.withBlk (trigger s.tsUs s.tsMs b)) :=
    congrArg (fun c => Host.Outcome.next (s.withBlk c)) (startBlock_of_idle hafter hidle)
  exact ⟨_, _, _, hstart, hlater, htrigger, rfl, rfl, rfl, rfl⟩

/-- A block that receives data past the throttle interval, at an edge below the glitch floor. -/
def glitchedState : State :=
  { State.resetWith (Params.defaults .dht22 2000) with
    blk := { Block.reset with state := .receivingData, armed := true, firstDone := true }
    tsUs := 9
    tsMs := 2000 }

theorem glitchedState_inv : Inv glitchedState :=
  .of_running (by constructor <;> decide) rfl

theorem glitchedState_edge :
    exec .edge glitchedState =
      .next (glitchedState.withBlk (abort .deltaGlitch (setLastEdge 9 glitchedState.blk))) := rfl

/-- Settles O52: `glitchedState` is one such state. -/
theorem startEdgeOrderCanMatter : Obligations.StartEdgeOrderCanMatter := by
  refine ⟨?_, fun s u' hinv hthr harmed hedge hidle => start_edge_orders hinv hthr harmed hedge hidle⟩
  obtain ⟨u, v, v', hstart, hlater, htrigger, -, hstate, -, hstate'⟩ :=
    start_edge_orders glitchedState_inv (by decide) rfl glitchedState_edge rfl
  exact ⟨_, u, _, v, v', glitchedState_inv, Params.defaults_legal .dht22 2000, hstart, hlater, glitchedState_edge,
    htrigger, hstate, hstate'⟩

/-- With no jitter ceiling RELEASE first arms the block for an EDGE that aborts it, and EDGE first has no effect. -/
theorem release_edge_orders {s : State} (hinv : Inv s) (hjitter : s.cfg.tJitter = 0#32)
    (hdrive : s.blk.driveLow = true) (hover : s.cfg.holdUs ≤ s.tsUs - s.blk.holdStart) :
    ∃ u u' v v', exec .release s = .next u ∧ exec .edge u = .next v ∧
      exec .edge s = .next u' ∧ exec .release u' = .next v' ∧
      v.blk.state = .stopped ∧ v.blk.status = .responseTimeout ∧
      v'.blk.state = .awaitingResponse ∧ v'.blk.armed = true := by
  obtain ⟨hstate, hoff⟩ := hinv.block.driveLowAwaiting hdrive
  have hrelease := exec_release_of_enabled ((releaseEnabled_iff ..).2 ⟨hdrive, hover⟩)
  have hclass : applyClass (s.withBlk (releaseLine s.tsUs s.blk)).edgeClass s.tsUs (releaseLine s.tsUs s.blk) =
      some (abort .responseTimeout (releaseLine s.tsUs s.blk)) := by
    rw [edgeClass_releaseLine hstate, hjitter]
    rfl
  exact ⟨_, _, _, _, hrelease, execEdge_of_applyClass rfl hclass, exec_edge_of_disarmed hoff, hrelease, rfl, rfl, hstate,
    rfl⟩

/-- With a hold of zero START first enables RELEASE at once, and RELEASE first is no step. -/
theorem start_release_orders {s : State} (hinv : Inv s) (hhold : s.cfg.holdUs = 0#32) (hidle : busy s.blk = false)
    (hthr : ¬(s.blk.firstDone = true ∧ s.tsMs - s.blk.lastAcq < s.cfg.throttleMs)) :
    ∃ u u' v v', exec .start s = .next u ∧ exec .release u = .next v ∧
      exec .release s = .next u' ∧ exec .start u' = .next v' ∧
      v.blk.armed = true ∧ v.sigDriveLow = false ∧ v'.blk.armed = false ∧ v'.sigDriveLow = true := by
  have hstart : exec .start s = .next (s.withBlk (trigger s.tsUs s.tsMs s.blk)) := by
    rw [exec_start, startBlock_of_idle (throttled_eq_false_iff.2 hthr) hidle]
  have hen : releaseEnabled s.cfg s.tsUs (trigger s.tsUs s.tsMs s.blk) = true :=
    (releaseEnabled_iff ..).2 ⟨rfl, by simp [hhold]⟩
  have hdrive : s.blk.driveLow = false := Bool.eq_false_iff.2 fun hdrive =>
    Bool.eq_false_iff.1 hidle ((busy_eq_true_iff _).2 (.inl (hinv.block.driveLowAwaiting hdrive).1))
  have hoff : releaseEnabled s.cfg s.tsUs s.blk = false := (releaseEnabled_eq_false_iff ..).2 (.inl hdrive)
  exact ⟨_, _, _, _, hstart, exec_release_of_enabled hen, exec_release_of_not_enabled hoff, hstart, rfl, rfl,
    hinv.block.disarmed_of_idle hidle, rfl⟩

/-- A block at the end of its trigger hold, with a jitter ceiling of zero. -/
def unjitteredState : State :=
  { State.resetWith { Params.defaults .dht22 2000 with tJitter := 0 } with
    blk := { Block.reset with state := .awaitingResponse, driveLow := true, firstDone := true }
    tsUs := 1000 }

theorem unjitteredState_inv : Inv unjitteredState :=
  .of_running (by constructor <;> decide) rfl

/-- Settles O57: `unjitteredState` is one such state. A delta of 0 is classified by the comparisons (log 19). -/
theorem releaseEdgeOrderCanMatter : Obligations.ReleaseEdgeOrderCanMatter := by
  refine ⟨?_, fun s hinv hjitter hdrive hover => release_edge_orders hinv hjitter hdrive hover,
    fun s hinv hhold hidle hthr => start_release_orders hinv hhold hidle hthr⟩
  obtain ⟨u, u', v, v', hrelease, hlater, hedge, hrelease', hstate, -, hstate', -⟩ :=
    release_edge_orders unjitteredState_inv rfl rfl (by decide)
  exact ⟨_, u, u', v, v', unjitteredState_inv, by decide, hrelease, hlater, hedge, hrelease', hstate, hstate'⟩

/-! ### Races that are seen -/

/-- Settles O60: an EDGE looks neither at `convPending` nor at `bus_rdata`. -/
theorem racesWithAnEdge : Obligations.RacesWithAnEdge := by
  refine ⟨fun s e hedge hbefore hafter => ?convAck, fun a s e hedge => ?rd⟩
  case convAck =>
    rcases execEdge_cases hedge with ⟨-, rfl⟩ | ⟨b, harmed, hb, rfl⟩
    · exact absurd hafter hbefore
    obtain ⟨b', hb', hack⟩ := exists_applyClass_ackConversion hb
    have hstate : b'.state = .acquired := (congrArg Block.state hack).trans hafter
    have hlater : exec .edge (s.withBlk (ackConversion s.blk)) = .next (s.withBlk b') :=
      execEdge_of_applyClass (s := s.withBlk (ackConversion s.blk)) harmed hb'
    exact ⟨_, _, _, rfl, hlater, convPending_of_acquired hb' hbefore hstate, rfl, rfl, hack.symm⟩
  case rd =>
    exact ⟨_, _, _, rfl, exec_edge_withRdata (regRead a s.blk) hedge, rfl, rfl, rfl, rfl, rfl⟩

end Sys2Proof.Machine
end

section
/-! PROOF. The edge classifier (O26 to O34, O36): the class of each delta, and what an armed EDGE of a class leaves. -/

namespace Sys2Proof.Machine

/-- Settles O26: `exec_edge_of_disarmed`. -/
theorem disarmedEdgeHasNoEffect : Obligations.DisarmedEdgeHasNoEffect :=
  fun _ hoff => exec_edge_of_disarmed hoff

/-- An armed EDGE has the effect of its delta's class. -/
theorem exec_edge_of_class {s : State} {st : AcqState} {c : EdgeClass} {b : Block} (harmed : s.blk.armed = true)
    (hstate : s.blk.state = st) (hclass : classify s.cfg st (s.tsUs - s.blk.lastEdge) = c)
    (hb : applyClass c s.tsUs s.blk = some b) : exec .edge s = .next (s.withBlk b) := by
  subst hstate hclass
  exact execEdge_of_applyClass harmed hb

/-! ### The class of each delta -/

section
variable {p : Params} {d : U32}

theorem classify_stall (st : AcqState) (hstall : p.tStall < d) : classify p st d = .stall :=
  if_pos hstall

theorem classify_awaiting (hstall : d ≤ p.tStall) : classify p .awaitingResponse d = classifyAwaiting p d :=
  if_neg (BitVec.not_lt.2 hstall)

theorem classify_receiving (hstall : d ≤ p.tStall) : classify p .receivingData d = classifyData p d :=
  if_neg (BitVec.not_lt.2 hstall)

theorem classify_terminal {st : AcqState} (hst : st = .acquired ∨ st = .stopped) (hstall : d ≤ p.tStall) :
    classify p st d = .terminal := by
  rcases hst with rfl | rfl <;> exact if_neg (BitVec.not_lt.2 hstall)

theorem classify_ne_stall (st : AcqState) (hstall : d ≤ p.tStall) : classify p st d ≠ .stall := by
  cases st with
  | awaitingResponse =>
    rw [classify_awaiting hstall, classifyAwaiting]
    split
    · nofun
    · split <;> nofun
  | receivingData =>
    rw [classify_receiving hstall, classifyData]
    split
    · nofun
    · split <;> nofun
  | acquired => rw [classify_terminal (.inl rfl) hstall]; nofun
  | stopped => rw [classify_terminal (.inr rfl) hstall]; nofun

theorem classifyAwaiting_jitter (hjitter : d < p.tJitter) : classifyAwaiting p d = .jitter :=
  if_pos hjitter

theorem classifyAwaiting_response (hjitter : p.tJitter ≤ d) (hwindow : p.tRespLo < d ∧ d < p.tRespHi) :
    classifyAwaiting p d = .response :=
  (if_neg (BitVec.not_lt.2 hjitter)).trans (if_pos hwindow)

theorem classifyAwaiting_responseTimeout (hjitter : p.tJitter ≤ d) (hwindow : ¬(p.tRespLo < d ∧ d < p.tRespHi)) :
    classifyAwaiting p d = .responseTimeout :=
  (if_neg (BitVec.not_lt.2 hjitter)).trans (if_neg hwindow)

theorem classifyData_glitch (hwindow : ¬(p.tBitLo < d ∧ d < p.tBitHi)) (hglitch : d < p.tGlitch) :
    classifyData p d = .glitch :=
  (if_neg hwindow).trans (if_pos hglitch)

theorem classifyData_dataTimeout (hwindow : ¬(p.tBitLo < d ∧ d < p.tBitHi)) (hglitch : p.tGlitch ≤ d) :
    classifyData p d = .dataTimeout :=
  (if_neg hwindow).trans (if_neg (BitVec.not_lt.2 hglitch))

end

/-! ### What the order of the thresholds gives (R9) -/

section
variable {p : Params} {d : U32} (h : p.ThresholdsLegal)
include h

theorem le_tStall_and_tJitter_le_of_response (hlo : p.tRespLo < d) (hhi : d < p.tRespHi) :
    d ≤ p.tStall ∧ p.tJitter ≤ d := by
  obtain ⟨-, -, -, -, hjitter, -, hstall⟩ := h
  constructor <;> bv_omega

theorem le_tStall_of_lt_tBitHi (hhi : d < p.tBitHi) : d ≤ p.tStall := by
  obtain ⟨-, -, -, hstall, -⟩ := h
  bv_omega

theorem le_tStall_and_not_dataBit_of_glitch (hglitch : d < p.tGlitch) :
    d ≤ p.tStall ∧ ¬(p.tBitLo < d ∧ d < p.tBitHi) := by
  obtain ⟨hfloor, hlo, hhi, hstall, -⟩ := h
  constructor <;> bv_omega

theorem dataTimeout_tests_of_band (hband : p.tGlitch ≤ d ∧ d ≤ p.tBitLo ∨ p.tBitHi ≤ d ∧ d ≤ p.tStall) :
    d ≤ p.tStall ∧ p.tGlitch ≤ d ∧ ¬(p.tBitLo < d ∧ d < p.tBitHi) := by
  obtain ⟨hfloor, hlo, hhi, hstall, -⟩ := h
  refine ⟨?_, ?_, ?_⟩ <;> bv_omega

end

/-! ### The stall guard and the terminal states -/

/-- Only the stall guard writes IsrTimeout: where the record shows it after an EDGE of another class, it showed it
before, and the EDGE ended nothing. -/
theorem isrTimeout_of_row {c : EdgeClass} {b b' : Block} (hc : c ≠ .stall) (hrow : b'.row = c.row b)
    (hstatus : b'.status = .isrTimeout) :
    b.status = .isrTimeout ∧ b'.armed = b.armed ∧ (b'.state = .stopped → b.state = .stopped) := by
  have hsame (hrow : b'.row = b.row) :
      b.status = .isrTimeout ∧ b'.armed = b.armed ∧ (b'.state = .stopped → b.state = .stopped) := by
    simp only [Block.row, Prod.mk.injEq] at hrow
    obtain ⟨hstate, -, harmed, hkept⟩ := hrow
    exact ⟨hkept.symm.trans hstatus, harmed, hstate.symm.trans⟩
  have hother {st : AcqState} {drive armed : Bool} {code : Status} (hcode : code ≠ .isrTimeout) :
      b'.row ≠ (st, drive, armed, code) := by
    simp [Block.row, hstatus, hcode.symm]
  cases c with
  | stall => exact absurd rfl hc
  | jitter => exact hsame hrow
  | terminal => exact hsame hrow
  | responseTimeout => exact absurd hrow (hother nofun)
  | glitch => exact absurd hrow (hother nofun)
  | dataTimeout => exact absurd hrow (hother nofun)
  | response =>
    simp only [Block.row, EdgeClass.row, Prod.mk.injEq] at hrow
    obtain ⟨hstate, -, harmed, hkept⟩ := hrow
    exact ⟨hkept.symm.trans hstatus, harmed, fun hstop => nomatch hstate.symm.trans hstop⟩
  | dataBit one =>
    rw [EdgeClass.row] at hrow
    split at hrow
    · split at hrow
      · exact absurd hrow (hother nofun)
      · exact absurd hrow (hother nofun)
    · exact hsame hrow

/-- Settles O27: the stall guard is the classifier's first test, and no other class writes IsrTimeout. -/
theorem stallGuardAborts : Obligations.StallGuardAborts := by
  refine fun s harmed => ⟨fun hstall => ?_, fun hbelow t ht hstatus => ?_⟩
  · exact exec_edge_of_class harmed rfl (classify_stall _ hstall) rfl
  · rcases execEdge_cases ht with ⟨hoff, -⟩ | ⟨b, -, hb, rfl⟩
    · exact nomatch harmed.symm.trans hoff
    obtain ⟨hbefore, hkept, hstop⟩ := isrTimeout_of_row (classify_ne_stall _ hbelow) (applyClass_row hb) hstatus
    exact ⟨hbefore, hkept.trans harmed, hstop⟩

/-- Settles O34: a terminal state is not busy, so the invariant has it disarmed, and its class is `terminal` below the
stall guard. -/
theorem armedTerminalEdgeChangesNothing : Obligations.ArmedTerminalEdgeChangesNothing := by
  refine fun s hterminal => ⟨fun hinv => ?_, fun harmed hbelow => ?_, fun harmed hstall => ?_⟩
  · exact hinv.block.disarmed_of_idle ((busy_eq_false_iff _).2 hterminal.symm)
  · exact exec_edge_of_class harmed rfl (classify_terminal hterminal hbelow) rfl
  · exact (stallGuardAborts s harmed).1 hstall

/-! ### AwaitingResponse -/

/-- A jitter edge changes nothing (R135). -/
theorem exec_edge_of_jitter {s : State} (harmed : s.blk.armed = true) (hstate : s.blk.state = .awaitingResponse)
    (hbelow : s.tsUs - s.blk.lastEdge ≤ s.cfg.tStall) (hjitter : s.tsUs - s.blk.lastEdge < s.cfg.tJitter) :
    exec .edge s = .next s :=
  exec_edge_of_class harmed hstate ((classify_awaiting hbelow).trans (classifyAwaiting_jitter hjitter)) rfl

/-- A running machine `u` whose record and parameters are still those of `s`. -/
structure Unmoved (s u : State) : Prop where
  running : u.rst = false
  cfg : u.cfg = s.cfg
  blk : u.blk = s.blk

/-- A jitter EDGE that arrives leaves the record, its reference among it, as it was. -/
theorem Unmoved.step_jitter {s u : State} {us ms : U32} {rest : List Input} (h : Unmoved s u)
    (harmed : s.blk.armed = true) (hstate : s.blk.state = .awaitingResponse) (hceiling : s.cfg.tJitter ≤ s.cfg.tStall)
    (hjitter : us - s.blk.lastEdge < s.cfg.tJitter) (hp : u.pending = edgeInput us ms :: rest) :
    ∃ t, step u = .next t ∧ Unmoved s t := by
  obtain ⟨hrst, hcfg, hblk⟩ := h
  rw [← hblk] at harmed hstate hjitter
  rw [← hcfg] at hceiling hjitter
  have hbelow : us - u.blk.lastEdge ≤ u.cfg.tStall := BitVec.le_trans (BitVec.le_of_lt hjitter) hceiling
  refine ⟨(u.withPending rest).withTime us ms, ?_, hrst, hcfg, hblk⟩
  rw [step_edgeInput hrst hp]
  exact exec_edge_of_jitter (s := (u.withPending rest).withTime us ms) harmed hstate hbelow hjitter

/-- Settles O28: each jitter edge of the list is measured from the reference that the one before it left alone. -/
theorem jitterEdgesRollBack : Obligations.JitterEdgesRollBack := by
  refine ⟨fun s => exec_edge_of_jitter, fun s times ms rest hrst harmed hstate hceiling hjitter hp => ?_⟩
  obtain ⟨t, hrun, ht, hrest⟩ := run_inputs (P := Unmoved s) (fun inp hmem u q hu hpu => by
    obtain ⟨us, hus, rfl⟩ := List.mem_map.1 hmem
    exact hu.step_jitter harmed hstate hceiling (hjitter us hus) hpu) ⟨hrst, rfl, rfl⟩ hp
  rw [List.length_map] at hrun
  exact ⟨t, hrun, ht.blk, hrest⟩

/-- Settles O29: the class is `response`, and the invariant has the cursors and the frame at zero until then. -/
theorem responseEdgeBeginsData : Obligations.ResponseEdgeBeginsData := by
  intro s harmed hstate hlo hhi hcond
  obtain ⟨hbelow, hjitter⟩ := hcond.elim id fun hlegal => le_tStall_and_tJitter_le_of_response hlegal hlo hhi
  refine ⟨?_, fun hinv => ?_⟩
  · exact exec_edge_of_class harmed hstate
      ((classify_awaiting hbelow).trans (classifyAwaiting_response hjitter ⟨hlo, hhi⟩)) rfl
  · obtain ⟨hbyte, hbit⟩ := hinv.block.awaitingCursor hstate
    exact ⟨hbyte, hbit, hinv.block.awaitingFrame hstate⟩

/-- Settles O30: the class is `responseTimeout`. -/
theorem lateOrEarlyResponseAborts : Obligations.LateOrEarlyResponseAborts := by
  intro s harmed hstate hbelow hjitter hout
  have hwindow : ¬(s.cfg.tRespLo < s.tsUs - s.blk.lastEdge ∧ s.tsUs - s.blk.lastEdge < s.cfg.tRespHi) :=
    fun ⟨hlo, hhi⟩ => hout.elim (BitVec.not_le.2 hlo) (BitVec.not_le.2 hhi)
  exact exec_edge_of_class harmed hstate
    ((classify_awaiting hbelow).trans (classifyAwaiting_responseTimeout hjitter hwindow)) rfl

/-! ### ReceivingData -/

/-- Settles O32: the class is `glitch`. -/
theorem glitchAborts : Obligations.GlitchAborts := by
  intro s harmed hstate hglitch hcond
  obtain ⟨hbelow, hwindow⟩ := hcond.elim id fun hlegal => le_tStall_and_not_dataBit_of_glitch hlegal hglitch
  exact exec_edge_of_class harmed hstate ((classify_receiving hbelow).trans (classifyData_glitch hwindow hglitch)) rfl

/-- Settles O33: the class is `dataTimeout`. -/
theorem dataTimeoutAborts : Obligations.DataTimeoutAborts := by
  intro s harmed hstate hcond
  obtain ⟨hbelow, hglitch, hwindow⟩ := hcond.elim id fun ⟨hlegal, hband⟩ => dataTimeout_tests_of_band hlegal hband
  exact exec_edge_of_class harmed hstate
    ((classify_receiving hbelow).trans (classifyData_dataTimeout hwindow hglitch)) rfl

/-- A frame with the bit that a test decides shifted into byte `i` (R139, R160). -/
theorem Frame.modify_shiftBit_decide (f : Frame) {i : BitVec 3} (hi : i ≤ 4#3) (q : Prop) [Decidable q] :
    f.modify i (shiftBit (decide q)) = some
      { b0 := if i = 0#3 then (f.b0 <<< 1) ||| (if q then 1#8 else 0#8) else f.b0
        b1 := if i = 1#3 then (f.b1 <<< 1) ||| (if q then 1#8 else 0#8) else f.b1
        b2 := if i = 2#3 then (f.b2 <<< 1) ||| (if q then 1#8 else 0#8) else f.b2
        b3 := if i = 3#3 then (f.b3 <<< 1) ||| (if q then 1#8 else 0#8) else f.b3
        b4 := if i = 4#3 then (f.b4 <<< 1) ||| (if q then 1#8 else 0#8) else f.b4 } := by
  obtain ⟨f', hf', -⟩ := f.exists_modify (i := i) (by bv_omega) (shiftBit (decide q))
  rw [hf', Frame.modify_eq_some _ _ _ _ hf']
  simp only [shiftBit_decide]
  rfl

/-- Settles O31: the record with the bit shifted in, then the four ways in which the cursors advance. -/
theorem validDataEdgeShiftsAndValidates : Obligations.ValidDataEdgeShiftsAndValidates := by
  intro s harmed hstate hbyte hlo hhi hcond bit f i g b
  have hbelow : s.tsUs - s.blk.lastEdge ≤ s.cfg.tStall :=
    hcond.elim id fun hlegal => le_tStall_of_lt_tBitHi hlegal hhi
  have hexec : exec .edge s = .next (s.withBlk (advanceCursor b)) :=
    execEdge_dataBit harmed hstate (classify_dataBit hbelow hlo hhi) (f.modify_shiftBit_decide hbyte _)
  have hlast (hbit : s.blk.bitCur = 7#3) (hi : i = 4#3) :
      advanceCursor b = completeFrame { b with bitCur := 0, byteCur := 5 } :=
    advanceCursor_of_last ⟨congrArg BitVec.toNat hi, congrArg BitVec.toNat hbit⟩
  refine ⟨fun hbit => ?_, fun hbit hi => ?_, fun hbit hi hsum => ?_, fun hbit hi hsum => ?_⟩ <;> rw [hexec]
  · rw [advanceCursor_of_bit (b := b) hbit]
    rfl
  · have hfull : ¬ s.blk.bitCur < 7#3 := hbit ▸ BitVec.lt_irrefl _
    have hnext : i + 1 ≠ 5#3 := by bv_omega
    rw [advanceCursor_of_byte (b := b) hfull hnext]
    rfl
  · rw [hlast hbit hi, completeFrame_of_ok ((Frame.checksumOk_iff _).2 hsum)]
    rfl
  · rw [hlast hbit hi, completeFrame_of_not_ok fun hok => hsum ((Frame.checksumOk_iff _).1 hok)]
    rfl

/-! ### The table of the default thresholds -/

theorem advanceCursor_frame (b : Block) : (advanceCursor b).frame = b.frame := by
  rcases advanceCursor_cases b with ⟨-, h⟩ | ⟨-, -, h⟩ | ⟨-, -, h⟩ <;> rw [h]
  exact (completeFrame_spec _).1

theorem shiftBit_false : shiftBit false = fun x : Byte => x <<< 1 := by
  funext x
  simp [shiftBit]

theorem shiftBit_true : shiftBit true = fun x : Byte => (x <<< 1) ||| 1#8 := rfl

/-- The frame after a data edge is the one before it with the bit shifted into the current byte. -/
theorem exec_edge_dataBit_frame {s t : State} (ht : exec .edge s = .next t) (harmed : s.blk.armed = true)
    (hstate : s.blk.state = .receivingData) (hbyte : s.blk.byteCur ≤ 4#3)
    (hbelow : s.tsUs - s.blk.lastEdge ≤ s.cfg.tStall) (hlo : s.cfg.tBitLo < s.tsUs - s.blk.lastEdge)
    (hhi : s.tsUs - s.blk.lastEdge < s.cfg.tBitHi) :
    some t.blk.frame =
      s.blk.frame.modify s.blk.byteCur (shiftBit (decide (s.cfg.tOne ≤ s.tsUs - s.blk.lastEdge))) := by
  have hg := s.blk.frame.modify_shiftBit_decide hbyte (s.cfg.tOne ≤ s.tsUs - s.blk.lastEdge)
  cases ht.symm.trans (execEdge_dataBit harmed hstate (classify_dataBit hbelow hlo hhi) hg)
  rw [hg, State.withBlk_blk, advanceCursor_frame]

section
variable {s t : State} {v : Variant} {thr : U32} (hcfg : s.cfg = Params.defaults v thr) (harmed : s.blk.armed = true)
  (ht : exec .edge s = .next t)
include hcfg harmed ht

/-- The rows of the table for AwaitingResponse. -/
theorem defaultTable_awaiting (hstate : s.blk.state = .awaitingResponse) :
    let d := s.tsUs - s.blk.lastEdge
    (d ≤ 64#32 → t = s) ∧
    (65#32 ≤ d ∧ d ≤ 125#32 ∨ 200#32 ≤ d ∧ d ≤ 6000#32 →
      t.blk.state = .stopped ∧ t.blk.status = .responseTimeout) ∧
    (126#32 ≤ d ∧ d ≤ 199#32 → t.blk.state = .receivingData ∧ t.blk.status = s.blk.status) ∧
    (6001#32 ≤ d → t.blk.state = .stopped ∧ t.blk.status = .isrTimeout) := by
  have hStall : s.cfg.tStall = 6000#32 := congrArg Params.tStall hcfg
  have hJitter : s.cfg.tJitter = 65#32 := congrArg Params.tJitter hcfg
  have hRespLo : s.cfg.tRespLo = 125#32 := congrArg Params.tRespLo hcfg
  have hRespHi : s.cfg.tRespHi = 200#32 := congrArg Params.tRespHi hcfg
  refine ⟨fun hd => ?jitter, fun hd => ?timeout, fun hd => ?response, fun hd => ?stall⟩
  case jitter =>
    have he := exec_edge_of_jitter harmed hstate (by bv_omega) (by bv_omega)
    exact Host.Outcome.next.inj (ht.symm.trans he)
  case timeout =>
    cases ht.symm.trans (lateOrEarlyResponseAborts s harmed hstate (by bv_omega) (by bv_omega) (by bv_omega))
    exact ⟨rfl, rfl⟩
  case response =>
    have hwindow : s.tsUs - s.blk.lastEdge ≤ s.cfg.tStall ∧ s.cfg.tJitter ≤ s.tsUs - s.blk.lastEdge := by
      constructor <;> bv_omega
    obtain ⟨he, -⟩ := responseEdgeBeginsData s harmed hstate (by bv_omega) (by bv_omega) (.inl hwindow)
    cases ht.symm.trans he
    exact ⟨rfl, rfl⟩
  case stall =>
    cases ht.symm.trans ((stallGuardAborts s harmed).1 (by bv_omega))
    exact ⟨rfl, rfl⟩

/-- The rows of the table for ReceivingData. -/
theorem defaultTable_receiving (hstate : s.blk.state = .receivingData) (hbyte : s.blk.byteCur ≤ 4#3) :
    let d := s.tsUs - s.blk.lastEdge
    (d ≤ 9#32 → t.blk.state = .stopped ∧ t.blk.status = .deltaGlitch) ∧
    (10#32 ≤ d ∧ d ≤ 60#32 ∨ 155#32 ≤ d ∧ d ≤ 6000#32 → t.blk.state = .stopped ∧ t.blk.status = .dataTimeout) ∧
    (61#32 ≤ d ∧ d ≤ 109#32 → some t.blk.frame = s.blk.frame.modify s.blk.byteCur (fun x => x <<< 1)) ∧
    (110#32 ≤ d ∧ d ≤ 154#32 → some t.blk.frame = s.blk.frame.modify s.blk.byteCur (fun x => (x <<< 1) ||| 1#8)) ∧
    (6001#32 ≤ d → t.blk.state = .stopped ∧ t.blk.status = .isrTimeout) := by
  have hStall : s.cfg.tStall = 6000#32 := congrArg Params.tStall hcfg
  have hBitLo : s.cfg.tBitLo = 60#32 := congrArg Params.tBitLo hcfg
  have hBitHi : s.cfg.tBitHi = 155#32 := congrArg Params.tBitHi hcfg
  have hOne : s.cfg.tOne = 110#32 := congrArg Params.tOne hcfg
  have hGlitch : s.cfg.tGlitch = 10#32 := congrArg Params.tGlitch hcfg
  have hlegal : s.cfg.ThresholdsLegal := hcfg ▸ (Params.defaults_legal v thr).1
  refine ⟨fun hd => ?glitch, fun hd => ?timeout, fun hd => ?zero, fun hd => ?one, fun hd => ?stall⟩
  case glitch =>
    cases ht.symm.trans (glitchAborts s harmed hstate (by bv_omega) (.inr hlegal))
    exact ⟨rfl, rfl⟩
  case timeout =>
    cases ht.symm.trans (dataTimeoutAborts s harmed hstate (.inr ⟨hlegal, by bv_omega⟩))
    exact ⟨rfl, rfl⟩
  case zero =>
    have hbit : ¬ s.cfg.tOne ≤ s.tsUs - s.blk.lastEdge := by bv_omega
    rw [exec_edge_dataBit_frame ht harmed hstate hbyte (by bv_omega) (by bv_omega) (by bv_omega),
      decide_eq_false hbit, shiftBit_false]
  case one =>
    have hbit : s.cfg.tOne ≤ s.tsUs - s.blk.lastEdge := by bv_omega
    rw [exec_edge_dataBit_frame ht harmed hstate hbyte (by bv_omega) (by bv_omega) (by bv_omega),
      decide_eq_true hbit, shiftBit_true]
  case stall =>
    cases ht.symm.trans ((stallGuardAborts s harmed).1 (by bv_omega))
    exact ⟨rfl, rfl⟩

end

/-- Settles O36: the invariant has an armed EDGE complete, and each row of the table is the effect of a class. -/
theorem defaultThresholdTable : Obligations.DefaultThresholdTable := by
  rintro s v thr d hinv hcfg harmed rfl
  obtain ⟨t, ht⟩ := hinv.block.exists_exec .edge
  exact ⟨t, ht, defaultTable_awaiting hcfg harmed ht, fun hstate =>
    defaultTable_receiving hcfg harmed ht hstate (hinv.block.receivingCursor hstate)⟩

end Sys2Proof.Machine
end

section
/-! PROOF. The checksum validator against a flipped bit (O50, R168): the flipped byte is another byte, so the truncated
sum is another sum, and byte 4 matched the old one. -/

namespace Sys2Proof.Machine

/-- Flipping one of its eight bits changes a byte. -/
theorem xor_oneBit_ne (x : Byte) {k : Nat} (hk : k < 8) : x ^^^ (1#8 <<< k) ≠ x := by
  have hmask : ∀ k < 8, 1#8 <<< k ≠ 0#8 := by decide
  intro hx
  exact hmask k hk ((BitVec.xor_right_inj x).1 (hx.trans BitVec.xor_zero.symm))

/-- A frame that passes the checksum passes no longer once its sum is another and byte 4 the same (R163). -/
theorem Frame.checksumOk_eq_false_of_sum_ne {f g : Frame} (hok : f.checksumOk = true) (hb4 : g.b4 = f.b4)
    (hsum : g.sum ≠ f.sum) : g.checksumOk = false :=
  Bool.eq_false_iff.2 fun hg =>
    hsum (((Frame.checksumOk_iff g).1 hg).symm.trans (hb4.trans ((Frame.checksumOk_iff f).1 hok)))

/-- Settles O50: modulo 256 a sum of four bytes determines each of them from the other three, so a flipped bit in one of
them changes it. -/
theorem singleBitFlipFailsChecksum : Obligations.SingleBitFlipFailsChecksum := by
  intro f k hk hok
  refine ⟨?b0, ?b1, ?b2, ?b3⟩
  all_goals
    refine Frame.checksumOk_eq_false_of_sum_ne hok rfl fun hsum => ?_
    simp only [Frame.sum, BitVec.add_left_inj, BitVec.add_right_inj] at hsum
  case b0 => exact xor_oneBit_ne f.b0 hk hsum
  case b1 => exact xor_oneBit_ne f.b1 hk hsum
  case b2 => exact xor_oneBit_ne f.b2 hk hsum
  case b3 => exact xor_oneBit_ne f.b3 hk hsum

end Sys2Proof.Machine
end

section
/-! PROOF. The consumer's view (O53 to O56, O58): how a frame is read, the polling predicates, the getter with nothing
between its operations, and the blocking call, which a busy block holds up until an edge or a reset (R238). -/

namespace Sys2Proof.Machine

/-! ### Frame interpretation -/

/-- Two bytes side by side are a big-endian number. -/
theorem append_byte_toNat {n : Nat} (x : BitVec n) (y : Byte) : (x ++ y).toNat = x.toNat * 256 + y.toNat := by
  rw [BitVec.toNat_append, ← Nat.shiftLeft_add_eq_or_of_lt y.isLt, Nat.shiftLeft_eq]

/-- The magnitude is the 15 bits below the sign (R185). -/
theorem magnitude22_eq (f : Frame) : magnitude22 f = (f.b2.extractLsb' 0 7 ++ f.b3).toNat := by
  rw [append_byte_toNat, BitVec.extractLsb'_toNat]
  rfl

/-- Settles O53: the two readings of a frame as numbers, and each quantity by its formula. -/
theorem frameInterpretation : Obligations.FrameInterpretation := by
  refine ⟨fun f => ⟨Int.mul_comm .., Int.mul_comm .., ?reading22⟩,
    fun d r => ⟨Int.mul_comm .., Int.mul_comm .., ?fahrenheit, rfl, rfl, rfl⟩⟩
  case reading22 =>
    have h22 : (interpret22 f).humidityTenths = ((f.b0 ++ f.b1).toNat : Int) ∧
        (interpret22 f).celsiusTenths = if f.b2.getLsbD 7 then -((f.b2.extractLsb' 0 7 ++ f.b3).toNat : Int)
          else ((f.b2.extractLsb' 0 7 ++ f.b3).toNat : Int) := by
      rw [append_byte_toNat, ← magnitude22_eq]
      exact ⟨rfl, rfl⟩
    rintro v (rfl | rfl) <;> exact h22
  case fahrenheit =>
    show 5 * (18 * r.celsiusTenths + 3200) = 9 * (10 * r.celsiusTenths) + 5 * 3200
    omega

/-! ### Polling -/

/-- Bit 0 of FLAGS (R37). -/
theorem regRead_flags_busy (b : Block) : (regRead 0x4#4 b).getLsbD 0 = busy b := (flagsByte_bits b).1

/-- STATE reads 1 or 2 while busy (R22, R34). -/
theorem regRead_state_busy_iff (b : Block) :
    regRead 0x2#4 b = 0x01#8 ∨ regRead 0x2#4 b = 0x02#8 ↔ busy b = true := by
  rw [regRead_state, busy_eq_true_iff]
  cases b.state <;> decide

/-- Settles O54: bit 0 of FLAGS is `busy`, which looks at the state alone. -/
theorem pollingPredicates : Obligations.PollingPredicates := by
  intro s
  have hbusy : isAcquiring s = busy s.blk := regRead_flags_busy s.blk
  rw [hbusy]
  refine ⟨?_, (regRead_state_busy_iff s.blk).symm, rfl, ⟨_, rfl, rfl, regRead_flags_busy s.blk⟩, rfl⟩
  rw [busy_eq_true_iff]
  cases s.blk.state <;> decide

/-! ### A getter with nothing between its operations -/

/-- Bit 1 of FLAGS (R37). -/
theorem regRead_flags_convPending (b : Block) : (regRead 0x4#4 b).getLsbD 1 = b.convPending :=
  have ⟨_, hconv, _⟩ := flagsByte_bits b
  hconv

section
variable {s : State} (hr : s.rst = false)
include hr

/-- What `bus_rdata` carries before a read has no part in its answer (R111). -/
theorem readAfter_zero_withRdata (a : Addr) (x : Byte) :
    readAfter 0 a (s.withRdata x) = some (regRead a s.blk, s.withRdata (regRead a s.blk)) :=
  readAfter_zero (s := s.withRdata x) a hr

theorem readFrame_zero : readFrame (fun _ => 0) s = some (s.blk.frame, s.withRdata s.blk.frame.b4) := by
  simp [readFrame, readAfter_zero _ hr, readAfter_zero_withRdata hr]

theorem convertFrame_zero (v : Variant) :
    convertFrame v (fun _ => 0) s =
      some (interpret v s.blk.frame, (s.withRdata s.blk.frame.b4).withBlk (ackConversion s.blk)) := by
  have hack : waitThen 0 .convAck (s.withRdata s.blk.frame.b4) =
      some ((s.withRdata s.blk.frame.b4).withBlk (ackConversion s.blk)) := waitThen_zero_of_exec hr rfl
  simp [convertFrame, readFrame_zero hr, hack]

theorem getAcquired_zero_of_pending (hconv : s.blk.convPending = true) (v : Variant) (d : DewFormulas) (q : Quantity)
    (cached : Reading) :
    getAcquired v d q (fun _ => 0) cached s =
      some ⟨.value ((interpret v s.blk.frame).value d q), interpret v s.blk.frame,
        (s.withRdata s.blk.frame.b4).withBlk (ackConversion s.blk)⟩ := by
  rw [getAcquired, readAfter_zero _ hr, Option.bind_some]
  dsimp only
  rw [regRead_flags_convPending, if_pos hconv]
  exact congrArg (Option.map _) (convertFrame_zero (s := s.withRdata _) hr v)

theorem getAcquired_zero_of_converted (hconv : s.blk.convPending = false) (v : Variant) (d : DewFormulas)
    (q : Quantity) (cached : Reading) :
    getAcquired v d q (fun _ => 0) cached s =
      some ⟨.value (cached.value d q), cached, s.withRdata (regRead 0x4#4 s.blk)⟩ := by
  rw [getAcquired, readAfter_zero _ hr, Option.bind_some]
  dsimp only
  rw [regRead_flags_convPending, if_neg (Bool.eq_false_iff.1 hconv)]

end

/-- Settles O55: STATE decides between the three ways of a getter, and in Acquired FLAGS does. -/
theorem getterProtocol : Obligations.GetterProtocol := by
  intro v d q cached s hr
  have hread (st : AcqState) (hstate : s.blk.state = st) :
      readAfter 0 0x2#4 s = some (st.code.setWidth 8, s.withRdata (st.code.setWidth 8)) := by
    rw [readAfter_zero _ hr, regRead_state, hstate]
  refine ⟨fun hstate => ?stopped, fun hbusy => ?busy, fun hstate hconv => ?pending, fun hstate hconv => ?converted⟩
  case stopped =>
    rw [getValue, hread _ hstate]
    exact congrArg (Option.map _) (readAfter_zero_withRdata hr 0x3#4 _)
  case busy =>
    rcases (busy_eq_true_iff s.blk).1 hbusy with hstate | hstate <;> rw [getValue, hread _ hstate, hstate] <;> rfl
  case pending =>
    rw [getValue, hread _ hstate]
    exact getAcquired_zero_of_pending (s := s.withRdata 0x03#8) hr hconv v d q cached
  case converted =>
    rw [getValue, hread _ hstate]
    exact getAcquired_zero_of_converted (s := s.withRdata 0x03#8) hr hconv v d q cached

/-! ### The blocking call -/

/-- On an idle block the first poll, at once, ends the loop (R182). -/
theorem pollUntilIdle_zero_of_idle {s : State} (hr : s.rst = false) (hidle : busy s.blk = false) (polls : List Nat) :
    pollUntilIdle 0 (0 :: polls) s = some (s.blk.status.byte, s.withRdata s.blk.status.byte) := by
  rw [pollUntilIdle, readAfter_zero _ hr, Option.bind_some]
  dsimp only
  rw [regRead_flags_busy, hidle]
  exact readAfter_zero_withRdata hr 0x3#4 _

/-- Settles O56: START is throttled, so it leaves the idle block idle. -/
theorem cachedAcquireWaitEndsAtOnce : Obligations.CachedAcquireWaitEndsAtOnce := by
  intro polls s hr hidle hfirst hthr
  have hstart : exec .start s = .next (s.withBlk (setResult .usedCachedReading s.blk)) := by
    rw [exec_start, startBlock_of_throttled ((throttled_iff ..).2 ⟨hfirst, hthr⟩)]
  rw [acquireWait, waitThen_zero_of_exec hr hstart, Option.bind_some]
  exact pollUntilIdle_zero_of_idle (s := s.withBlk (setResult .usedCachedReading s.blk)) hr hidle polls

/-- What the loop answers, and when (R182). -/
theorem pollUntilIdle_answer {last : Nat} {polls : List Nat} {s t : State} {status : Byte}
    (h : pollUntilIdle last polls s = some (status, t)) :
    status = t.blk.status.byte ∧ t.busRdata = status ∧ (last = 0 → busy t.blk = false) := by
  induction polls generalizing s with
  | nil => cases h
  | cons n polls ih =>
    obtain ⟨flags, u, hpoll, ⟨-, hrest⟩ | ⟨hbit, hread⟩⟩ := pollUntilIdle_cases h
    · exact ih hrest
    obtain ⟨w, hrun, hperform, hstatus, hdata⟩ := readAfter_cases hread
    refine ⟨hstatus, hdata.symm, ?_⟩
    rintro rfl
    cases hrun
    obtain ⟨-, -, -, hflags, -⟩ := readAfter_cases hpoll
    have hidle : busy u.blk = false := by rw [← regRead_flags_busy, ← hflags, hbit]
    obtain ⟨-, hblk, -⟩ := perform_rd_cases hperform
    rw [hblk]
    split
    · rfl
    · exact hidle

/-! ### A busy block with no edge and no reset -/

theorem Input.mayEdge_eq_false_iff (inp : Input) :
    inp.mayEdge = false ↔ inp.stim.instr ≠ some .edge ∧ inp.stim ≠ .sigLevel false := by
  simp [Input.mayEdge]

/-- A busy block leaves its state by EDGE or SRST alone (R41, R114). -/
theorem exec_state_of_busy {i : Instr} {s t : State} (hbusy : busy s.blk = true) (hedge : i ≠ .edge)
    (hsrst : i ≠ .srst) (he : exec i s = .next t) : t.blk.state = s.blk.state := by
  by_cases hstart : i = .start
  · subst hstart
    cases he
    rw [State.withBlk_blk, startBlock_of_turnsAway (.inr hbusy), setResult_state]
  · obtain ⟨howners, -⟩ := onlyOwnersWriteFields i s t he
    have hother : ¬(i = .start ∨ i = .srst ∨ i = .edge) := not_or.2 ⟨hstart, not_or.2 ⟨hsrst, hedge⟩⟩
    exact Decidable.not_not.1 fun hstate => hother (howners hstate)

/-- An acquisition is in flight in state `st`, and no input yet to arrive may bring an edge or a reset. -/
structure InFlight (st : AcqState) (s : State) : Prop where
  running : s.rst = false
  busy : busy s.blk = true
  state : s.blk.state = st
  inputs : ∀ inp ∈ s.pending, inp.mayEdge = false ∧ inp.resets = false

section
variable {st : AcqState} {s t : State} (h : InFlight st s)
include h

theorem InFlight.exec {i : Instr} (hedge : i ≠ .edge) (hsrst : i ≠ .srst) (he : exec i s = .next t) :
    InFlight st t := by
  have hstate := exec_state_of_busy h.busy hedge hsrst he
  obtain ⟨hrst, -, hpending⟩ := exec_frame he
  exact ⟨hrst.trans h.running, (busy_congr _ _ hstate).trans h.busy, hstate.trans h.state, hpending ▸ h.inputs⟩

theorem InFlight.accept {inp : Input} (hedge : inp.mayEdge = false) (hreset : inp.resets = false)
    (ha : accept inp.stim s = .next t) : InFlight st t := by
  obtain ⟨hword, hfall⟩ := (Input.mayEdge_eq_false_iff inp).1 hedge
  obtain ⟨hsrst, hrst⟩ := (Input.resets_eq_false_iff inp).1 hreset
  rcases accept_cases ha with ⟨i, hi, hp⟩ | ⟨hlevel, -, -⟩ | ⟨level, -, -, rfl⟩ | ⟨level, hlevel, rfl⟩
  · rw [perform_of_running i h.running] at hp
    rw [hi] at hword hsrst
    exact h.exec (fun e => hword (congrArg some e)) (fun e => hsrst (congrArg some e)) hp
  · exact absurd hlevel hfall
  · exact ⟨h.running, h.busy, h.state, h.inputs⟩
  · cases level with
    | true => exact absurd hlevel hrst
    | false =>
      have hblk : (s.withRst false).blk = s.blk := by simp [h.running]
      exact ⟨rfl, hblk ▸ h.busy, hblk ▸ h.state, h.inputs⟩

theorem InFlight.step (hs : step s = .next t) : InFlight st t := by
  obtain ⟨hr, hbusy, hstate, hinputs⟩ := h
  rcases step_cases hs with ⟨-, hidle⟩ | ⟨inp, rest, hp, ha⟩
  · rcases idle_cases hidle with ⟨hr', -⟩ | ⟨-, -, rfl⟩ | ⟨-, -, he⟩
    · exact absurd hr' (by simp [hr])
    · exact ⟨hr, hbusy, hstate, hinputs⟩
    · have hdue : InFlight st (s.withTime (releaseDue s.cfg s.tsUs s.blk) s.tsMs) := ⟨hr, hbusy, hstate, hinputs⟩
      exact hdue.exec (i := .release) nofun nofun he
  · rw [hp, List.forall_mem_cons] at hinputs
    obtain ⟨⟨hedge, hreset⟩, hrest⟩ := hinputs
    have harrives : InFlight st ((s.withPending rest).withTime inp.nowUs inp.nowMs) := ⟨hr, hbusy, hstate, hrest⟩
    exact harrives.accept hedge hreset ha

/-- However long the machine runs, the acquisition stays in flight (R238). -/
theorem InFlight.run {n : Nat} (hrun : run n s = .next t) : InFlight st t :=
  run_keeps (fun _ _ hu hs => hu.step hs) h hrun

theorem InFlight.readAfter {n : Nat} {a : Addr} {v : Byte} (hread : readAfter n a s = some (v, t)) :
    InFlight st t := by
  obtain ⟨u, hrun, hp, -⟩ := readAfter_cases hread
  have hu := h.run hrun
  rw [perform_of_running _ hu.running] at hp
  exact hu.exec (i := .rd a) nofun nofun hp

/-- Every poll finds the block busy. -/
theorem InFlight.pollUntilIdle_eq_none (last : Nat) (polls : List Nat) : pollUntilIdle last polls s = none := by
  induction polls generalizing s with
  | nil => rfl
  | cons n polls ih =>
    rw [Option.eq_none_iff_forall_ne_some]
    rintro ⟨status, t⟩ hsome
    obtain ⟨flags, u, hpoll, hcase⟩ := pollUntilIdle_cases hsome
    have hu := h.readAfter hpoll
    obtain ⟨-, -, -, hflags, -⟩ := readAfter_cases hpoll
    have hbit : flags.getLsbD 0 = true := by rw [hflags, regRead_flags_busy, hu.busy]
    rcases hcase with ⟨-, hrest⟩ | ⟨hidle, -⟩
    · simp [ih hu] at hrest
    · exact Bool.noConfusion (hbit.symm.trans hidle)

end

/-- After a START on a busy block, or one that is not throttled, an acquisition is in flight (R101). -/
theorem busy_startBlock {p : Params} {us ms : U32} {b : Block} (h : busy b = true ∨ throttled p ms b = false) :
    busy (startBlock p us ms b) = true := by
  cases hbusy : busy b with
  | true => rw [startBlock_of_turnsAway (.inr hbusy)]; exact hbusy
  | false =>
    rw [startBlock_of_idle (h.resolve_left (Bool.eq_false_iff.1 hbusy)) hbusy]
    rfl

/-- Settles O58: the loop's answer by induction on the polls, and after START the acquisition stays in flight. -/
theorem acquireWaitFollowsTheDecoder : Obligations.AcquireWaitFollowsTheDecoder := by
  refine ⟨fun polls last s t status _ h => ?answer, fun polls last s _ hr hflight hinputs => ?never⟩
  case answer =>
    obtain ⟨u, -, hpoll⟩ := Option.bind_eq_some_iff.1 h
    exact pollUntilIdle_answer hpoll
  case never =>
    rw [← throttled_eq_false_iff] at hflight
    rw [acquireWait, waitThen_zero_of_exec hr (exec_start s), Option.bind_some]
    have hstarted : InFlight _ (s.withBlk (startBlock s.cfg s.tsUs s.tsMs s.blk)) :=
      ⟨hr, busy_startBlock hflight, rfl, hinputs⟩
    exact hstarted.pollUntilIdle_eq_none last polls

end Sys2Proof.Machine
end

section
/-! PROOF. Errors (O37, O38): an EDGE that ends an acquisition in Stopped is an abort or rejects a complete frame. -/

namespace Sys2Proof.Machine

/-- The code with which an EDGE of a class aborts (R200, R203). A rejected frame is no abort (R165). -/
def EdgeClass.abortCode : EdgeClass → Option Status
  | .stall => some .isrTimeout
  | .jitter => none
  | .response => none
  | .responseTimeout => some .responseTimeout
  | .dataBit _ => none
  | .glitch => some .deltaGlitch
  | .dataTimeout => some .dataTimeout
  | .terminal => none

/-- The record after a fortieth data bit with which the checksum does not match (R160, R161, R165). -/
def rejectFrame (one : Bool) (us : U32) (b : Block) : Block :=
  { b with
    lastEdge := us, frame := { b.frame with b4 := shiftBit one b.frame.b4 }, bitCur := 0, byteCur := 5,
    armed := false, status := .checksumError, state := .stopped }

section
variable {b b' : Block} {c : EdgeClass} {us : U32} {one : Bool}

/-- The fortieth data bit, with a checksum that does not match. -/
theorem shiftIn_of_rejected (hbyte : b.byteCur = 4#3) (hbit : b.bitCur = 7#3)
    (hsum : shiftBit one b.frame.b4 ≠ b.frame.b0 + b.frame.b1 + b.frame.b2 + b.frame.b3) :
    shiftIn one (setLastEdge us b) = some (rejectFrame one us b) := by
  refine (shiftIn_eq_some_iff ..).2 ⟨{ b.frame with b4 := shiftBit one b.frame.b4 }, ?_, ?_⟩
  · rw [setLastEdge_byteCur, hbyte]
    rfl
  · have hlast : CursorAt 39 { setLastEdge us b with frame := { b.frame with b4 := shiftBit one b.frame.b4 } } :=
      ⟨congrArg BitVec.toNat hbyte, congrArg BitVec.toNat hbit⟩
    rw [advanceCursor_of_last hlast, completeFrame_of_not_ok fun hok => hsum ((Frame.checksumOk_iff _).1 hok)]
    rfl

/-- A data bit that ends the acquisition in Stopped is the fortieth, and the checksum fails with it. -/
theorem shiftIn_stops (h : shiftIn one (setLastEdge us b) = some b') (hrun : b.state ≠ .stopped)
    (hstop : b'.state = .stopped) :
    b.byteCur = 4#3 ∧ b.bitCur = 7#3 ∧
      shiftBit one b.frame.b4 ≠ b.frame.b0 + b.frame.b1 + b.frame.b2 + b.frame.b3 ∧ b' = rejectFrame one us b := by
  have hrow : .stopped = ((EdgeClass.dataBit one).row (setLastEdge us b)).1 :=
    hstop.symm.trans (congrArg Prod.fst (shiftIn_row h))
  rw [EdgeClass.row] at hrow
  split at hrow
  next hend =>
    obtain ⟨hbyte, hbit⟩ := hend
    split at hrow
    next => exact nomatch hrow
    next hsum => exact ⟨hbyte, hbit, hsum, Option.some.inj (h.symm.trans (shiftIn_of_rejected hbyte hbit hsum))⟩
  next => exact absurd hrow.symm hrun

/-- The two ways in which the effect of a class ends an acquisition in Stopped. -/
theorem applyClass_stops (h : applyClass c us b = some b') (hrun : b.state ≠ .stopped) (hstop : b'.state = .stopped) :
    (∃ code, c.abortCode = some code ∧ b' = abort code (setLastEdge us b)) ∨
    (∃ one, c = .dataBit one ∧ b.byteCur = 4#3 ∧ b.bitCur = 7#3 ∧
      shiftBit one b.frame.b4 ≠ b.frame.b0 + b.frame.b1 + b.frame.b2 + b.frame.b3 ∧ b' = rejectFrame one us b) := by
  cases c with
  | stall => cases h; exact .inl ⟨_, rfl, rfl⟩
  | responseTimeout => cases h; exact .inl ⟨_, rfl, rfl⟩
  | glitch => cases h; exact .inl ⟨_, rfl, rfl⟩
  | dataTimeout => cases h; exact .inl ⟨_, rfl, rfl⟩
  | jitter => cases h; exact absurd hstop hrun
  | terminal => cases h; exact absurd hstop hrun
  | response => cases h; exact nomatch hstop
  | dataBit one => exact .inr ⟨one, rfl, shiftIn_stops h hrun hstop⟩

end

section
variable {p : Params} {st : AcqState} {d : U32}

/-- The tests behind each abort code (R201). -/
theorem classify_abortCode_cases {code : Status} (h : (classify p st d).abortCode = some code) :
    (code = .isrTimeout ∧ p.tStall < d) ∨
    (code = .responseTimeout ∧ st = .awaitingResponse ∧ p.tJitter ≤ d ∧ d ≤ p.tStall ∧
      ¬(p.tRespLo < d ∧ d < p.tRespHi)) ∨
    (code = .dataTimeout ∧ st = .receivingData ∧ p.tGlitch ≤ d ∧ d ≤ p.tStall ∧ ¬(p.tBitLo < d ∧ d < p.tBitHi)) ∨
    (code = .deltaGlitch ∧ st = .receivingData ∧ d < p.tGlitch ∧ d ≤ p.tStall ∧
      ¬(p.tBitLo < d ∧ d < p.tBitHi)) := by
  rcases classify_cases p st d with ⟨hstall, hc⟩ | ⟨-, -, -, hc⟩ | ⟨-, -, -, -, hc⟩ | ⟨hbelow, hst, hjit, hout, hc⟩ |
    ⟨-, -, -, hc⟩ | ⟨hbelow, hst, hout, hgl, hc⟩ | ⟨hbelow, hst, hout, hgl, hc⟩ | ⟨-, -, hc⟩ <;>
    rw [hc] at h <;> cases h
  · exact .inl ⟨rfl, hstall⟩
  · exact .inr (.inl ⟨rfl, hst, BitVec.not_lt.1 hjit, BitVec.not_lt.1 hbelow, hout⟩)
  · exact .inr (.inr (.inr ⟨rfl, hst, hgl, BitVec.not_lt.1 hbelow, hout⟩))
  · exact .inr (.inr (.inl ⟨rfl, hst, BitVec.not_lt.1 hgl, BitVec.not_lt.1 hbelow, hout⟩))

/-- The tests behind a data bit (R138, R139). -/
theorem tests_of_classify_dataBit {one : Bool} (h : classify p st d = .dataBit one) :
    st = .receivingData ∧ (p.tBitLo < d ∧ d < p.tBitHi) ∧ d ≤ p.tStall ∧ one = decide (p.tOne ≤ d) := by
  rcases classify_cases p st d with ⟨-, hc⟩ | ⟨-, -, -, hc⟩ | ⟨-, -, -, -, hc⟩ | ⟨-, -, -, -, hc⟩ |
    ⟨hbelow, hst, hwindow, hc⟩ | ⟨-, -, -, -, hc⟩ | ⟨-, -, -, -, hc⟩ | ⟨-, -, hc⟩ <;> rw [hc] at h <;> cases h
  exact ⟨hst, hwindow, BitVec.not_lt.1 hbelow, rfl⟩

end

/-- No operation but EDGE and SRST writes `status`, and SRST writes NotStarted (R41, R109). -/
theorem status_of_exec {i : Instr} {s t : State} (h : exec i s = .next t) (hedge : i ≠ .edge) :
    t.blk.status = s.blk.status ∨ i = .srst ∧ t.blk.status = .notStarted := by
  obtain ⟨-, howner, -⟩ := onlyOwnersWriteFields i s t h
  by_cases hkept : t.blk.status = s.blk.status
  · exact .inl hkept
  · obtain rfl := (howner hkept).resolve_right hedge
    cases h
    exact .inr ⟨rfl, rfl⟩

/-- Settles O37: an abort has the tests of its code behind it, and a rejected frame those of a data bit. -/
theorem errorStatusHasItsCause : Obligations.ErrorStatusHasItsCause := by
  refine ⟨fun s t hinv h hrun hstop => ?_, fun _ _ _ => status_of_exec⟩
  rcases execEdge_cases h with ⟨-, rfl⟩ | ⟨b, harmed, hb, rfl⟩
  · exact absurd hstop hrun
  refine ⟨harmed, (hinv.block.armedBusy harmed).1, ?_⟩
  rcases applyClass_stops hb hrun hstop with ⟨code, hcode, rfl⟩ | ⟨one, hclass, hbyte, hbit, hsum, rfl⟩
  · rcases classify_abortCode_cases hcode with ⟨rfl, hstall⟩ | ⟨rfl, hstate, hjitter, hbelow, hout⟩ |
      ⟨rfl, hstate, hglitch, hbelow, hout⟩ | ⟨rfl, hstate, hglitch, hbelow, hout⟩
    · exact .inl ⟨rfl, hstall, rfl, rfl, rfl⟩
    · obtain ⟨hbyte, hbit⟩ := hinv.block.awaitingCursor hstate
      exact .inr (.inl ⟨rfl, hstate, hjitter, hbelow, hout, hinv.block.awaitingFrame hstate, hbyte, hbit⟩)
    · exact .inr (.inr (.inl ⟨rfl, hstate, hglitch, hbelow, hout, rfl, rfl, rfl⟩))
    · exact .inr (.inr (.inr (.inl ⟨rfl, hstate, hglitch, hbelow, hout, rfl, rfl, rfl⟩)))
  · obtain ⟨hstate, hwindow, hbelow, rfl⟩ := tests_of_classify_dataBit hclass
    have hframe := congrArg (fun x => { s.blk.frame with b4 := x })
      (shiftBit_decide (s.cfg.tOne ≤ s.tsUs - s.blk.lastEdge) s.blk.frame.b4)
    exact .inr (.inr (.inr (.inr ⟨rfl, hstate, hwindow, hbelow, hbyte, hbit, hframe, hsum, rfl, rfl⟩)))

/-- Settles O38: an abort writes the fields of R203 after `lastEdge`, and a rejected frame leaves `convPending`. -/
theorem abortsArePrecise : Obligations.AbortsArePrecise := by
  intro s t h hrun hstop
  rcases execEdge_cases h with ⟨-, rfl⟩ | ⟨b, -, hb, rfl⟩
  · exact absurd hstop hrun
  rcases applyClass_stops hb hrun hstop with ⟨code, -, rfl⟩ | ⟨one, -, -, -, -, rfl⟩
  · exact ⟨rfl, fun _ => rfl⟩
  · exact ⟨rfl, fun hother => absurd rfl hother⟩

end Sys2Proof.Machine
end

section
/-! PROOF. Reset and hazards (O1, O2, O48): what a level of `rst` and every other stimulus under it leave, and a busy
block that sees neither an edge nor a reset. -/

namespace Sys2Proof.Machine

/-! ### A level of `rst` -/

/-- At reset STATUS reads NotStarted, and every other register 0x00 (R36, R230). -/
theorem regRead_reset (a : Addr) : regRead a Block.reset = if a = 0x3#4 then 0xF9#8 else 0x00#8 := by
  revert a; decide

/-- A level of `rst` is taken off the queue and leaves the port there. -/
theorem step_rstLevel {s : State} {level : Bool} {us ms : U32} {rest : List Input}
    (hp : s.pending = ⟨.rstLevel level, us, ms⟩ :: rest) :
    step s = .next (((s.withPending rest).withTime us ms).withRst level) :=
  step_cons hp

/-- Settles O1: the record is at reset from the assertion on, and the release of `rst` keeps it there. -/
theorem resetSetsEveryField : Obligations.ResetSetsEveryField := by
  intro s u m u' m' rest hp
  have hrun : run 2 s =
      .next { s with blk := Block.reset, rst := false, tsUs := u', tsMs := m', pending := rest } :=
    (run_succ ..).2 ⟨_, step_rstLevel hp, (run_succ ..).2 ⟨_, step_rstLevel rfl, run_zero _⟩⟩
  exact ⟨_, hrun, rfl, rfl, rfl, regRead_reset, rfl, fun _ => rfl⟩

/-! ### Stimuli while `rst` is asserted -/

theorem heldInReset_rd (a : Addr) (s : State) :
    heldInReset (.rd a) s = (s.withBlk Block.reset).withRdata (regRead a Block.reset) := rfl

/-- Held in reset, an operation that is no read does nothing but hold the record at reset (R232). -/
theorem heldInReset_of_ne_rd {i : Instr} (h : ∀ a, i ≠ .rd a) (s : State) :
    heldInReset i s = s.withBlk Block.reset := by
  cases i with
  | rd a => exact absurd rfl (h a)
  | _ => rfl

section
variable {s t : State} (h : Inv s) (hrst : s.rst = true)
include h hrst

/-- Under `rst` the record is at reset already (R232). -/
theorem Inv.withBlk_reset : s.withBlk Block.reset = s := by
  rw [← h.inReset hrst]
  rfl

/-- Under `rst` a stimulus brings an operation that is held off, or a level of `sig_in` that is recorded only. -/
theorem Inv.accept_in_reset {st : Stimulus} (hlevel : ∀ level, st ≠ .rstLevel level)
    (ha : Machine.accept st s = .next t) :
    (∃ i, st.instr = some i ∧ t = heldInReset i s) ∨ (∃ level, st = .sigLevel level ∧ t = s.withSigIn level) := by
  rcases accept_cases ha with ⟨i, hi, hp⟩ | ⟨hfall, -, hp⟩ | ⟨level, hsig, -, ht⟩ | ⟨level, hrstLevel, -⟩
  · rw [perform_in_reset i hrst] at hp
    cases hp
    exact .inl ⟨i, hi, rfl⟩
  · rw [perform_in_reset .edge (s := s.withSigIn false) hrst, heldInReset_of_ne_rd (i := .edge) nofun,
      (h.withSigIn false).withBlk_reset hrst] at hp
    cases hp
    exact .inr ⟨false, hfall, rfl⟩
  · exact .inr ⟨level, hsig, ht⟩
  · exact absurd hrstLevel (hlevel level)

end

/-- Settles O2: under `rst` a step changes no more than ports and queue, and asserting it resets the record. -/
theorem nothingTakesEffectInReset : Obligations.NothingTakesEffectInReset := by
  refine ⟨fun s hinv hrst hp => ?idle, fun s inp rest hinv hp =>
    ⟨fun hrst hvalid hlevel => ?held, fun hassert => ?assert⟩⟩
  case idle =>
    rw [step_eq, stepInput_nil hp, idle, if_pos hrst, hinv.withBlk_reset hrst]
  case held =>
    have harrives : Inv ((s.withPending rest).withTime inp.nowUs inp.nowMs) := (hinv.withPending rest).withTime _ _
    obtain ⟨t, ha⟩ := harrives.exists_accept hvalid
    refine ⟨t, by rw [step_eq, stepInput_cons hp, ha], ?_⟩
    rcases harrives.accept_in_reset hrst hlevel ha with ⟨i, hi, rfl⟩ | ⟨level, hsig, rfl⟩
    · refine ⟨heldInReset_blk i _, (heldInReset_rst i _).trans hrst, fun a hread => ?_, fun hother => ?_⟩
      · obtain rfl : i = .rd a := Option.some.inj (hi.symm.trans hread)
        rw [heldInReset_rd, State.withRdata_busRdata, regRead_reset]
      · rw [heldInReset_of_ne_rd fun a hia => hother a (hi.trans (congrArg some hia))]
        rfl
    · refine ⟨hinv.inReset hrst, hrst, fun a hread => ?_, fun _ => rfl⟩
      rw [hsig] at hread
      exact nomatch hread
  case assert =>
    obtain ⟨st, us, ms⟩ := inp
    obtain rfl : st = .rstLevel true := hassert
    exact ⟨_, step_rstLevel hp, rfl, rfl, rfl, regRead_reset 0x3⟩

/-! ### A stall -/

/-- Settles O48: the acquisition stays in flight along the run, so a START past the throttle finds the block busy. -/
theorem stallLastsUntilEdgeOrReset : Obligations.StallLastsUntilEdgeOrReset := by
  intro n s t _ hrst hbusy hinputs hrun
  have hflight : InFlight s.blk.state t := InFlight.run ⟨hrst, hbusy, rfl, hinputs⟩ hrun
  refine ⟨hflight.busy, hflight.state, fun hpast => ?_⟩
  have hfree : throttled t.cfg t.tsMs t.blk = false := throttled_eq_false_iff.2 fun h => BitVec.not_lt.2 hpast h.2
  rw [exec_start, startBlock_of_busy hfree hflight.busy]
  rfl

end Sys2Proof.Machine
end
